-- ==== Sys2Proof/Config.lean ====
section
/-! DEFINITION. What one implementation of the engine fixes: the width `W`. -/

namespace Sys2Proof

/-- The width in bits of every data register, operand and result (00_scope.md R4, decision D1): 64
for this hardware. The other parameter of R4, `BUS`, is read by no rule and has no counterpart here
(log 8). -/
abbrev Config.W : Nat := 64

end Sys2Proof
end

