-- ==== Sys2Proof/Word.lean ====
section
/-! DEFINITION. The word type of the engine. -/

namespace Sys2Proof

/-- A data value: an unsigned integer of `W = 64` bits, bit 0 least significant (00_scope.md R5). -/
abbrev Word := BitVec 64

/-- A 3-bit register index (10_state.md R20). -/
abbrev RegIndex := BitVec 3

end Sys2Proof
end

