-- ==== Sys2Proof/Syntax.lean ====
section
/-! DEFINITION. The commands of the engine, and the lines of the host script notation. -/

namespace Sys2Proof

/-- The whole command set (30_encoding.md R72, 60_exceptions.md R171): one constructor per row of
the opcode table. A command has no operand field (R71); its operands are the registers OPA, OPB and
OPM. -/
inductive Instr where
  /-- OPC `0x01`, modular exponentiation (40_pow_mod.md R94). -/
  | powmod
  /-- OPC `0x02`, quadratic residue test (41_legendre.md R114). -/
  | legendre
  /-- OPC `0x03`, square root solver (42_sqrt_mod.md R125). -/
  | sqrtmod
  deriving DecidableEq, Repr

/-- The six host-visible registers by name (10_state.md R20). -/
inductive Reg where
  | opa
  | opb
  | opm
  | cmd
  | status
  | res
  deriving DecidableEq, Repr

/-- An identifier of a host script (30_encoding.md R78). Identifiers are only compared with each
other, so each is a number (log 11). -/
abbrev Name := Nat

/-- The identifier `_st`, to which every read of STATUS that a `wait` makes is bound (30_encoding.md
R79). It is a name like any other, unlike `_`, and has the number 0 (log 11). -/
abbrev stName : Name := 0

/-- `<val>` of a script line (30_encoding.md R78): a literal, a mnemonic standing for its command
word, or a name bound by an earlier `rd`. -/
inductive Val where
  | lit (n : Nat)
  | mnem (i : Instr)
  | name (x : Name)
  deriving DecidableEq, Repr

/-- A script line that is one host transaction, or is repeated until BUSY reads 0 (30_encoding.md
R78, R79). A destination of `none` is `_`, the value discarded. -/
inductive Line where
  /-- `wr <reg>, <val>` -/
  | wr (r : Reg) (v : Val)
  /-- `rd <reg> -> <name>` -/
  | rd (r : Reg) (dst : Option Name)
  /-- `wait` (a destination of `none`) or `wait -> <name>`; both also bind `_st` -/
  | wait (dst : Option Name)
  deriving DecidableEq, Repr

/-- A script line or pseudo-line (30_encoding.md R79). -/
inductive PseudoLine where
  | line (l : Line)
  | cmd (i : Instr)
  | powmod (a b m : Val) (dst : Option Name)
  | legendre (n p : Val) (dst : Option Name)
  | sqrtmod (n p : Val) (st dst : Option Name)
  deriving DecidableEq, Repr

end Sys2Proof
end

