-- ==== Sys2Proof/WellFormed.lean ====
section
/-! DEFINITION. What makes a command, a command word and a host script well formed. -/

namespace Sys2Proof

/-- A command has no operand, size, mode or condition field (30_encoding.md R70, R71), so there is
nothing a term of `Instr` could get wrong: each is well formed. -/
def Instr.wf : Instr → Bool
  | .powmod => true
  | .legendre => true
  | .sqrtmod => true

/-- RSV, bits 63:8 of a command word, must be 0 (30_encoding.md R70). -/
def rsvZero (v : Word) : Bool := v.toNat / 256 == 0

/-- OPC, bits 7:0 of a command word, is `0x01`, `0x02` or `0x03` (30_encoding.md R72). -/
def opcLegal (v : Word) : Bool :=
  v.toNat % 256 == 1 || v.toNat % 256 == 2 || v.toNat % 256 == 3

/-- A legal command word (30_encoding.md R70, R72). -/
def commandWordWf (v : Word) : Bool := rsvZero v && opcLegal v

/-- `<val>` is below `2^W`, and a name is bound by an earlier line (30_encoding.md R78). -/
def Val.wf (bound : List Name) : Val → Bool
  | .lit n => n < 2 ^ Config.W
  | .mnem i => i.wf
  | .name x => bound.contains x

/-- The names bound once a line has run; a `wait` binds `_st` too (30_encoding.md R78, R79). -/
def Line.binds (bound : List Name) : Line → List Name
  | .wr _ _ => bound
  | .rd _ dst => dst.toList ++ bound
  | .wait dst => dst.toList ++ stName :: bound

/-- A line uses only names bound before it and literals below `2^W` (30_encoding.md R78). -/
def Line.wf (bound : List Name) : Line → Bool
  | .wr _ v => v.wf bound
  | .rd _ _ => true
  | .wait _ => true

/-- A host script is a sequence of lines, each well formed after those before it (30_encoding.md
R78). -/
def scriptWf (bound : List Name) : List Line → Bool
  | [] => true
  | l :: ls => l.wf bound && scriptWf (l.binds bound) ls

end Sys2Proof
end

