-- ==== Sys2Proof/Decode.lean ====
section
/-! DEFINITION. Decoding a command word, total and rejecting by name, and the encoder. -/

namespace Sys2Proof

/-- Why a word is no command (30_encoding.md R76). -/
inductive Illegal where
  /-- a nonzero bit in RSV, even with a legal OPC -/
  | reservedBits
  /-- OPC is `0x00` or in `0x04` to `0xFF` -/
  | opcode
  deriving DecidableEq, Repr

/-- OPC, bits 7:0 of a command word (30_encoding.md R70). -/
def opcField (v : Word) : BitVec 8 := v.extractLsb' 0 8

/-- RSV, bits 63:8 of a command word (30_encoding.md R70). -/
def rsvField (v : Word) : BitVec 56 := v.extractLsb' 8 56

/-- The opcode map, read from an OPC value (30_encoding.md R72). -/
def instrOfOpcode (opc : BitVec 8) : Option Instr :=
  if opc = 0x01#8 then some .powmod
  else if opc = 0x02#8 then some .legendre
  else if opc = 0x03#8 then some .sqrtmod
  else none

/-- The command a CMD word stands for, or why it stands for none (30_encoding.md R72, R76). A
command is always exactly one word (R77). -/
def decode (v : Word) : Except Illegal Instr :=
  if rsvField v ≠ 0#56 then .error .reservedBits
  else
    match instrOfOpcode (opcField v) with
    | some i => .ok i
    | none => .error .opcode

/-- The OPC value of a command (30_encoding.md R72). -/
def opcode : Instr → BitVec 8
  | .powmod => 0x01#8
  | .legendre => 0x02#8
  | .sqrtmod => 0x03#8

/-- The command word of a command: RSV zero above OPC (30_encoding.md R70, R72). -/
def encode (i : Instr) : Word := 0#56 ++ opcode i

/-- The command the decoder reads from an instruction of `nbits` bits whose bits are `w`, bit 0 the
least significant; bits above `nbits` are 0. A command is one 64-bit word and has no byte order
(20_memory.md R56), so the bits are the word. A number of more than 64 bits is no command word
(log 9). -/
def decodeTableWord (nbits w : Nat) : Option Instr :=
  if w % 2 ^ nbits < 2 ^ Config.W then
    match decode (BitVec.ofNat 64 (w % 2 ^ nbits)) with
    | .ok i => some i
    | .error _ => none
  else none

/-- Every command's word decodes to it. -/
theorem decode_powmod_word : decode 0x0000000000000001#64 = .ok .powmod := by decide

theorem decode_legendre_word : decode 0x0000000000000002#64 = .ok .legendre := by decide

theorem decode_sqrtmod_word : decode 0x0000000000000003#64 = .ok .sqrtmod := by decide

end Sys2Proof
end

