-- ==== Sys2Proof/Machine/State.lean ====
section
/-! DEFINITION. The state of the engine as plain data, the reasons a step can stop, and reset. -/

namespace Sys2Proof.Machine

/-- The outcome codes (60_exceptions.md R161). The values 3 to 7 and 12 to 15 of the 4-bit code are
never produced and have no constructor (93_implementation_defined.md V3, log 7). -/
inductive Code where
  /-- 0 NONE: no command has completed since reset or acceptance -/
  | none
  /-- 1 OK: `x[RES]` holds the command's value -/
  | ok
  /-- 2 NOROOT: `n mod p` is a non-residue; not a fault -/
  | noroot
  /-- 8 ERR_ILLEGAL: the word written to CMD is not 1, 2 or 3 -/
  | errIllegal
  /-- 9 ERR_MODZERO: POWMOD with modulus 0 -/
  | errModzero
  /-- 10 ERR_BADP: LEGENDRE or SQRTMOD with an even modulus or one below 3 -/
  | errBadp
  /-- 11 ERR_INTERNAL: the correction loop of SQRTMOD found no `i` -/
  | errInternal
  deriving DecidableEq, Repr

/-- The values of the phase register `ph` (10_state.md R24). -/
inductive Phase where
  | idle
  | pmExec
  | lgExec
  | init
  | dispatch
  | fastpath
  | gsZsearch
  | gsFactor
  | gsInitvars
  | corrLoop
  deriving DecidableEq, Repr

/-- The events of the one total order in which everything happens (20_memory.md R58). -/
inductive Event where
  /-- a `HostRead(i)` (20_memory.md R52) -/
  | hostRead (i : RegIndex)
  /-- a `HostWrite(i, v)` (20_memory.md R53) -/
  | hostWrite (i : RegIndex) (v : Word)
  /-- the engine's turn: one engine step if it is enabled, else nothing (log 1) -/
  | engine
  /-- the reset event (70_reset_and_hazards.md R190) -/
  | reset
  deriving DecidableEq, Repr

/-- Why the model stops. The engine's own faults are outcome codes and never stop it
(60_exceptions.md R165); these two are raised only in states that no run reaches, and both are safe:
the model stops where the spec gives no value. -/
inductive Fault where
  /-- Raised by an engine phase whose modulus `w.P` lies outside the domain of the function it calls:
  `w.P = 0` for `MulMod` and `PowMod` (40_pow_mod.md R90, R91), `w.P` even or below 3 for `Legendre`
  and SQRTMOD (41_legendre.md R110). Safe (log 4). -/
  | modulusUndefined
  /-- Raised by GS_ZSEARCH and CORRLOOP when a value to be stored does not fit `W` bits; no rule of
  the spec truncates (00_scope.md R6, 40_pow_mod.md R102). Safe (log 5). -/
  | widthExceeded
  deriving DecidableEq, Repr

/-- Why an instruction has no meaning in the model. -/
inductive Refusal where
  /-- Raised by an arm of `exec` whose instruction has no meaning yet; no arm does. Safe. -/
  | notModelled (mnemonic : String)
  deriving DecidableEq, Repr

/-- Everything the spec gives the machine (10_state.md R20 to R32), and two fields of the model's
own for what happens at the host port. -/
structure State where
  /-- `x[OPA]`, first operand (R20, R21) -/
  opa : Word
  /-- `x[OPB]`, second operand (R20, R21) -/
  opb : Word
  /-- `x[OPM]`, the modulus (R20, R21) -/
  opm : Word
  /-- `x[RES]`, the result (R22) -/
  res : Word
  /-- `busy` (R26) -/
  busy : Bool
  /-- `code` (R26) -/
  code : Code
  /-- `ph` (R24) -/
  ph : Phase
  /-- `w.op`, the latched opcode (R29) -/
  wOp : BitVec 8
  /-- `w.A`, the latched first operand (R29) -/
  wA : Word
  /-- `w.B`, the latched second operand (R29) -/
  wB : Word
  /-- `w.P`, the latched modulus (R29) -/
  wP : Word
  /-- `w.n`, the operand reduced (R30) -/
  wN : Word
  /-- `w.z`, the non-residue candidate (R30) -/
  wZ : Word
  /-- `w.s`, the number of factors of 2 removed from `p - 1` (R30) -/
  wS : Word
  /-- `w.q`, the largest odd divisor of `p - 1` (R30) -/
  wQ : Word
  /-- `w.c`, the correction base (R30) -/
  wC : Word
  /-- `w.r`, the current root candidate (R30) -/
  wR : Word
  /-- `w.t`, the current error factor (R30) -/
  wT : Word
  /-- `w.m`, the order bound, decreasing (R30) -/
  wM : Word
  /-- the model's own: the events still to happen, in order (R58, log 1) -/
  inbox : List Event
  /-- the model's own: the values host reads have returned, newest first (R52, log 2) -/
  replies : List Word
  deriving DecidableEq, Repr

/-- The state right after reset (10_state.md R34). The latched command and the working registers are
unspecified there and hold 0 here: DESIGN CHOICE, unsafe (log 3). -/
def State.reset : State where
  opa := 0#64
  opb := 0#64
  opm := 0#64
  res := 0#64
  busy := false
  code := .none
  ph := .idle
  wOp := 0#8
  wA := 0#64
  wB := 0#64
  wP := 0#64
  wN := 0#64
  wZ := 0#64
  wS := 0#64
  wQ := 0#64
  wC := 0#64
  wR := 0#64
  wT := 0#64
  wM := 0#64
  inbox := []
  replies := []

end Sys2Proof.Machine
end

