-- ==== Sys2Proof/Machine/Arith.lean ====
section
/-! DEFINITION. The integer functions of the engine: MulMod, PowMod, Legendre, Factor2,
LeastNonResidue, LeastI and SqrtMod. Everything is computed on natural numbers and narrowed at the
end; that no narrowing loses a bit is 40_pow_mod.md R102. -/

namespace Sys2Proof.Machine

/-- The boundary check of LEGENDRE and SQRTMOD, `w.P[0] = 0 or w.P < 3` (41_legendre.md R112,
42_sqrt_mod.md R126). -/
def badModulus (p : Word) : Bool := p.toNat % 2 == 0 || decide (p.toNat < 3)

/-- A modulus `MulMod` and `PowMod` are defined for, `m > 0`; they have no value elsewhere
(40_pow_mod.md R90, R91, 93_implementation_defined.md U1). -/
structure Modulus where
  val : Word
  pos : 0 < val.toNat
  deriving DecidableEq, Repr

/-- A modulus `Legendre` and `SqrtMod` are defined for, odd and at least 3 (41_legendre.md R110,
42_sqrt_mod.md R124, 93_implementation_defined.md U2). -/
structure OddModulus where
  val : Word
  good : badModulus val = false
  deriving DecidableEq, Repr

theorem badModulus_eq_false_iff (p : Word) :
    badModulus p = false ↔ p.toNat % 2 = 1 ∧ 3 ≤ p.toNat := by
  simp only [badModulus, Bool.or_eq_false_iff, beq_eq_false_iff_ne, decide_eq_false_iff_not]
  omega

theorem OddModulus.odd (p : OddModulus) : p.val.toNat % 2 = 1 :=
  ((badModulus_eq_false_iff p.val).1 p.good).1

theorem OddModulus.three_le (p : OddModulus) : 3 ≤ p.val.toNat :=
  ((badModulus_eq_false_iff p.val).1 p.good).2

/-- An odd modulus taken as a modulus. -/
def OddModulus.toModulus (p : OddModulus) : Modulus where
  val := p.val
  pos := Nat.lt_of_lt_of_le (by decide) p.three_le

/-- The word of a natural number; used where the number is below `2^W` (40_pow_mod.md R102). -/
def narrow (n : Nat) : Word := BitVec.ofNat 64 n

/-- `a mod m` (00_scope.md R6). -/
def reduce (a : Word) (m : Modulus) : Word := narrow (a.toNat % m.val.toNat)

/-- `MulMod(a, b, m)`, the exact product reduced (40_pow_mod.md R90). -/
def mulMod (a b : Word) (m : Modulus) : Word := narrow (a.toNat * b.toNat % m.val.toNat)

/-- The variables of the loop of `PowMod` (40_pow_mod.md R91). -/
structure PowVars where
  acc : Word
  bb : Word
  e : Word
  deriving DecidableEq, Repr

/-- One round of the loop of `PowMod`: the body for the lowest bit of the exponent (40_pow_mod.md
R91). -/
def powRound (m : Modulus) (x : PowVars) : PowVars where
  acc := if x.e.toNat % 2 = 1 then mulMod x.acc x.bb m else x.acc
  bb := mulMod x.bb x.bb m
  e := narrow (x.e.toNat / 2)

/-- The loop of `PowMod`, while `e ≠ 0`, at most the given number of rounds (40_pow_mod.md R91). -/
def powLoop (m : Modulus) : Nat → PowVars → PowVars
  | 0, x => x
  | k + 1, x => if x.e = 0#64 then x else powLoop m k (powRound m x)

/-- The variables before the first round: `acc = 1 mod m`, `bb = base mod m` (40_pow_mod.md R91). -/
def powStart (base e : Word) (m : Modulus) : PowVars where
  acc := reduce 1#64 m
  bb := reduce base m
  e := e

/-- `PowMod(base, e, m)`, binary exponentiation from the least significant bit (40_pow_mod.md R91);
`W` rounds are enough (R97, log 10). -/
def powMod (base e : Word) (m : Modulus) : Word :=
  (powLoop m Config.W (powStart base e m)).acc

/-- `(p - 1) >> 1`, the exponent of `Legendre` (41_legendre.md R110). -/
def halfPred (p : Word) : Word := narrow ((p.toNat - 1) / 2)

/-- `Legendre(n, p)`, the literal value `n^((p-1)/2) mod p` (41_legendre.md R110). -/
def legendreValue (n : Word) (p : OddModulus) : Word :=
  powMod (reduce n p.toModulus) (halfPred p.val) p.toModulus

/-- The loop of `Factor2`: halve while even, counting (42_sqrt_mod.md R121). -/
def factorLoop : Nat → Nat → Word → Nat × Word
  | 0, s, q => (s, q)
  | k + 1, s, q => if q.toNat % 2 = 1 then (s, q) else factorLoop k (s + 1) (narrow (q.toNat / 2))

/-- `Factor2(v)` for `v ≠ 0`: the pair `(s, q)` with `v = 2^s * q` and `q` odd (42_sqrt_mod.md R121);
`W` rounds are enough (log 10). -/
def factor2 (v : Word) (_ : v.toNat ≠ 0) : Word × Word :=
  let sq := factorLoop Config.W 0 v
  (narrow sq.1, sq.2)

/-- `p - 1`, which does not borrow (40_pow_mod.md R102). -/
def OddModulus.pred (p : OddModulus) : Word := narrow (p.val.toNat - 1)

theorem OddModulus.pred_toNat (p : OddModulus) : p.pred.toNat = p.val.toNat - 1 := by
  have := p.val.isLt
  simp only [OddModulus.pred, narrow, BitVec.toNat_ofNat]
  omega

theorem OddModulus.pred_ne_zero (p : OddModulus) : p.pred.toNat ≠ 0 := by
  have := p.three_le
  rw [p.pred_toNat]
  omega

/-- The search of `LeastNonResidue`, upward from `z`, at most the given number of candidates. -/
def nonResidueLoop (p : OddModulus) : Nat → Word → Word
  | 0, z => z
  | k + 1, z =>
    if legendreValue z p = 1#64 then nonResidueLoop p k (narrow (z.toNat + 1)) else z

/-- `LeastNonResidue(p)`, the smallest `z ≥ 2` with `Legendre(z, p) ≠ 1` (42_sqrt_mod.md R122); `p`
candidates are enough (R138, log 10). -/
def leastNonResidue (p : OddModulus) : Word := nonResidueLoop p p.val.toNat 2#64

/-- The loop of `LeastI`: `k` more squarings, the next one giving `t^(2^i)` (42_sqrt_mod.md R123). -/
def leastILoop (p : OddModulus) : Nat → Nat → Word → Option Nat
  | 0, _, _ => none
  | k + 1, i, tt =>
    if mulMod tt tt p.toModulus = 1#64 then some i
    else leastILoop p k (i + 1) (mulMod tt tt p.toModulus)

/-- `LeastI(t, m, p)`, the smallest `i` in `[1, m)` with `t^(2^i) ≡ 1 (mod p)` (42_sqrt_mod.md
R123). -/
def leastI (t m : Word) (p : OddModulus) : Option Nat := leastILoop p (m.toNat - 1) 1 t

/-- `(p >> 2) + 1`, the exponent of FASTPATH, which never forms `p + 1` (42_sqrt_mod.md R132). -/
def quarterUp (p : Word) : Word := narrow (p.toNat / 4 + 1)

/-- `(q + 1) >> 1`, the exponent of `r` in GS_INITVARS (42_sqrt_mod.md R135). -/
def halfUp (q : Word) : Word := narrow ((q.toNat + 1) / 2)

/-- The search state of the correction loop, "the tuple (m, c, t, r)" (10_state.md R30). -/
structure Search where
  m : Word
  c : Word
  t : Word
  r : Word
  deriving DecidableEq, Repr

/-- The search state GeneralSetup ends in (42_sqrt_mod.md R135). -/
def searchStart (n z s q : Word) (p : OddModulus) : Search where
  m := s
  c := powMod z q p.toModulus
  t := powMod n q p.toModulus
  r := powMod n (halfUp q) p.toModulus

/-- The exponent `1 << (m - i - 1)` of one correction (42_sqrt_mod.md R136); used where the shift is
below `W`. -/
def corrExponent (m : Word) (i : Nat) : Word := narrow (2 ^ (m.toNat - i - 1))

/-- One iteration of the correction loop for the least `i`; every right-hand side reads the old
values (42_sqrt_mod.md R136). -/
def corrUpdate (p : OddModulus) (i : Nat) (x : Search) : Search :=
  let b := powMod x.c (corrExponent x.m i) p.toModulus
  let bb := mulMod b b p.toModulus
  { m := narrow i
    c := bb
    t := mulMod x.t bb p.toModulus
    r := mulMod x.r b p.toModulus }

/-- The correction loop of `SqrtMod`, at most the given number of tests of `t` (42_sqrt_mod.md
R124). -/
def corrLoopValue (p : OddModulus) : Nat → Search → Code × Word
  | 0, _ => (.errInternal, 0#64)
  | k + 1, x =>
    if x.t = 1#64 then (.ok, x.r)
    else
      match leastI x.t x.m p with
      | none => (.errInternal, 0#64)
      | some i => corrLoopValue p k (corrUpdate p i x)

/-- The general path of `SqrtMod`, for `n1` reduced with `Legendre(n1, p) = 1` and `p mod 4 = 1`
(42_sqrt_mod.md R124); `W` tests of `t` are enough, since `m` starts at `s < W` and falls (R140,
log 10). -/
def generalPath (n1 : Word) (p : OddModulus) : Code × Word :=
  let sq := factor2 p.pred p.pred_ne_zero
  corrLoopValue p Config.W (searchStart n1 (leastNonResidue p) sq.1 sq.2 p)

/-- `SqrtMod(n, p)`, the outcome of SQRTMOD as one function (42_sqrt_mod.md R124). -/
def sqrtMod (n : Word) (p : OddModulus) : Code × Word :=
  let n1 := reduce n p.toModulus
  if n1 = 0#64 then (.ok, 0#64)
  else if legendreValue n1 p ≠ 1#64 then (.noroot, 0#64)
  else if p.val.toNat % 4 = 3 then (.ok, powMod n1 (quarterUp p.val) p.toModulus)
  else generalPath n1 p

end Sys2Proof.Machine
end

