-- ==== Sys2Proof/Machine/Ops.lean ====
section
/-! DEFINITION. The shared operations on the state: completing a command, raising a fault, starting a
command's phases, the reset event, and handing the modulus to a phase. -/

namespace Sys2Proof.Machine

/-- `Complete(c, v)`, the single action that ends a command (60_exceptions.md R163). The working
registers keep what they hold. -/
def complete (c : Code) (v : Word) (s : State) : State :=
  { s with res := v, code := c, busy := false, ph := .idle }

/-- `raise Fault(c)`, the whole of taking an exception on this hardware (60_exceptions.md R165):
nothing is saved, no mode changes, control goes nowhere. There is no return from it (R167). -/
def raiseFault (c : Code) (s : State) : State := complete c 0#64 s

/-- An accepted command that passed its boundary check becomes busy in its first phase
(30_encoding.md R73, R75). -/
def startPhase (ph : Phase) (s : State) : State := { s with busy := true, ph := ph }

/-- The reset event (70_reset_and_hazards.md R190): the engine is as after reset, whatever it was
doing (R191). What the host has still to do and has read is not the engine's. -/
def resetEngine (s : State) : State :=
  { State.reset with inbox := s.inbox, replies := s.replies }

/-- What a `HostRead` returns reaches the host (20_memory.md R52, log 2). -/
def reply (v : Word) (s : State) : State := { s with replies := v :: s.replies }

/-- The outcome of a phase that calls `MulMod` or `PowMod` with the modulus `w.P`: the phase's own if
`w.P` is in their domain, else the model stops (log 4). -/
def withModulus (w : Word) (k : Modulus → Host.Outcome State Fault Refusal) :
    Host.Outcome State Fault Refusal :=
  if h : 0 < w.toNat then k ⟨w, h⟩ else .fault .modulusUndefined

/-- The same for a phase of LEGENDRE or SQRTMOD, whose modulus is odd and at least 3 (log 4). -/
def withOddModulus (w : Word) (k : OddModulus → Host.Outcome State Fault Refusal) :
    Host.Outcome State Fault Refusal :=
  if h : badModulus w = false then k ⟨w, h⟩ else .fault .modulusUndefined

/-- The outcome of storing a value that the rules show to be below `2^W`: the model stops if it is
not (00_scope.md R6, log 5). -/
def withinWidth (n : Nat) (k : Word → Host.Outcome State Fault Refusal) :
    Host.Outcome State Fault Refusal :=
  if n < 2 ^ Config.W then k (narrow n) else .fault .widthExceeded

end Sys2Proof.Machine
end

