-- ==== Sys2Proof/Machine/Operands.lean ====
section
/-! DEFINITION. The operands of a command, which are implicit: the registers OPA, OPB and OPM, read
at acceptance and never again. -/

namespace Sys2Proof.Machine

/-- Acceptance latches the opcode and the three operand registers and clears RES and `code`
(10_state.md R29, 30_encoding.md R73, R75). -/
def latch (i : Instr) (s : State) : State :=
  { s with
    wOp := opcode i, wA := s.opa, wB := s.opb, wP := s.opm, res := 0#64, code := .none }

/-- The register an index names; 6 and 7 are reserved and name none (10_state.md R20, 20_memory.md
R55). -/
def regOfIndex (i : RegIndex) : Option Reg :=
  match i.toNat with
  | 0 => some .opa
  | 1 => some .opb
  | 2 => some .opm
  | 3 => some .cmd
  | 4 => some .status
  | 5 => some .res
  | _ => none

/-- The index of a register (10_state.md R20). -/
def regIndex : Reg → RegIndex
  | .opa => 0#3
  | .opb => 1#3
  | .opm => 2#3
  | .cmd => 3#3
  | .status => 4#3
  | .res => 5#3

end Sys2Proof.Machine
end

