-- ==== Sys2Proof/Machine/Legendre.lean ====
section
/-! DEFINITION. LEGENDRE: its acceptance and its one phase. -/

namespace Sys2Proof.Machine

/-- Issuing LEGENDRE: dropped while busy (30_encoding.md R74), else accepted (R73, R75), with the
boundary check `w.P[0] = 0 or w.P < 3` (41_legendre.md R112). -/
def execLegendre (s : State) : Host.Outcome State Fault Refusal :=
  if s.busy then .next s
  else if badModulus (latch .legendre s).wP then .next (raiseFault .errBadp (latch .legendre s))
  else .next (startPhase .lgExec (latch .legendre s))

/-- The step of phase LG_EXEC, `Complete(OK, Legendre(w.A, w.P))` (41_legendre.md R113). -/
def stepLgExec (s : State) : Host.Outcome State Fault Refusal :=
  withOddModulus s.wP fun p => .next (complete .ok (legendreValue s.wA p) s)

end Sys2Proof.Machine
end

