-- ==== Sys2Proof/Machine/PowMod.lean ====
section
/-! DEFINITION. POWMOD: its acceptance and its one phase. -/

namespace Sys2Proof.Machine

/-- Issuing POWMOD: dropped while busy (30_encoding.md R74), else accepted (R73, R75), with the
boundary check `w.P = 0` (40_pow_mod.md R95). -/
def execPowmod (s : State) : Host.Outcome State Fault Refusal :=
  if s.busy then .next s
  else if (latch .powmod s).wP = 0#64 then .next (raiseFault .errModzero (latch .powmod s))
  else .next (startPhase .pmExec (latch .powmod s))

/-- The step of phase PM_EXEC, `Complete(OK, PowMod(w.A, w.B, w.P))` (40_pow_mod.md R96). -/
def stepPmExec (s : State) : Host.Outcome State Fault Refusal :=
  withModulus s.wP fun m => .next (complete .ok (powMod s.wA s.wB m) s)

end Sys2Proof.Machine
end

