-- ==== Sys2Proof/Machine/SqrtMod.lean ====
section
/-! DEFINITION. SQRTMOD: its acceptance and its seven phases. -/

namespace Sys2Proof.Machine

/-- Issuing SQRTMOD: dropped while busy (30_encoding.md R74), else accepted (R73, R75), with the
boundary check `w.P[0] = 0 or w.P < 3` (42_sqrt_mod.md R126). -/
def execSqrtmod (s : State) : Host.Outcome State Fault Refusal :=
  if s.busy then .next s
  else if badModulus (latch .sqrtmod s).wP then .next (raiseFault .errBadp (latch .sqrtmod s))
  else .next (startPhase .init (latch .sqrtmod s))

/-- Step INIT: reduce `n`; 0 is its own root, before the residue test (42_sqrt_mod.md R130). -/
def stepInit (s : State) : Host.Outcome State Fault Refusal :=
  withOddModulus s.wP fun p =>
    let n := reduce s.wA p.toModulus
    if n = 0#64 then .next (complete .ok 0#64 { s with wN := n })
    else .next { s with wN := n, ph := .dispatch }

/-- Step DISPATCH: the residue test, then the path by `p mod 4` (42_sqrt_mod.md R131). -/
def stepDispatch (s : State) : Host.Outcome State Fault Refusal :=
  withOddModulus s.wP fun p =>
    if legendreValue s.wN p ≠ 1#64 then .next (complete .noroot 0#64 s)
    else if s.wP.toNat % 4 = 3 then .next { s with ph := .fastpath }
    else .next { s with wZ := 2#64, ph := .gsZsearch }

/-- Step FASTPATH (42_sqrt_mod.md R132). -/
def stepFastpath (s : State) : Host.Outcome State Fault Refusal :=
  withOddModulus s.wP fun p =>
    .next (complete .ok (powMod s.wN (quarterUp s.wP) p.toModulus) s)

/-- Step GS_ZSEARCH, one candidate (42_sqrt_mod.md R133). -/
def stepGsZsearch (s : State) : Host.Outcome State Fault Refusal :=
  withOddModulus s.wP fun p =>
    if legendreValue s.wZ p = 1#64 then
      withinWidth (s.wZ.toNat + 1) fun z => .next { s with wZ := z }
    else .next { s with ph := .gsFactor }

/-- Step GS_FACTOR (42_sqrt_mod.md R134). -/
def stepGsFactor (s : State) : Host.Outcome State Fault Refusal :=
  withOddModulus s.wP fun p =>
    let sq := factor2 p.pred p.pred_ne_zero
    .next { s with wS := sq.1, wQ := sq.2, ph := .gsInitvars }

/-- The search state the working registers hold (10_state.md R30). -/
def searchOf (s : State) : Search where
  m := s.wM
  c := s.wC
  t := s.wT
  r := s.wR

/-- The working registers take a search state. -/
def setSearch (x : Search) (s : State) : State :=
  { s with wM := x.m, wC := x.c, wT := x.t, wR := x.r }

/-- Step GS_INITVARS (42_sqrt_mod.md R135). -/
def stepGsInitvars (s : State) : Host.Outcome State Fault Refusal :=
  withOddModulus s.wP fun p =>
    .next { setSearch (searchStart s.wN s.wZ s.wS s.wQ p) s with ph := .corrLoop }

/-- Step CORRLOOP: one test of `t` and, if it is not 1, one iteration (42_sqrt_mod.md R136). -/
def stepCorrLoop (s : State) : Host.Outcome State Fault Refusal :=
  withOddModulus s.wP fun p =>
    if s.wT = 1#64 then .next (complete .ok s.wR s)
    else
      match leastI s.wT s.wM p with
      | none => .next (raiseFault .errInternal s)
      | some i =>
        if s.wM.toNat - i - 1 < Config.W then .next (setSearch (corrUpdate p i (searchOf s)) s)
        else .fault .widthExceeded

end Sys2Proof.Machine
end

