-- ==== Sys2Proof/Machine/Dispatch.lean ====
section
/-! DEFINITION. One arm per command: what issuing it does, that is what a write of its word to CMD
does (30_encoding.md R73). The phases it starts are steps of the engine (Machine/Engine.lean). -/

namespace Sys2Proof.Machine

def exec (i : Instr) (s : State) : Host.Outcome State Fault Refusal :=
  match i with
  | .powmod => Sys2Proof.Machine.execPowmod s
  | .legendre => Sys2Proof.Machine.execLegendre s
  | .sqrtmod => Sys2Proof.Machine.execSqrtmod s

end Sys2Proof.Machine
end

