-- ==== Sys2Proof/Machine/Engine.lean ====
section
/-! DEFINITION. The engine's own steps: one phase of the running command. -/

namespace Sys2Proof.Machine

/-- The step of the phase `ph` holds; in IDLE no step is enabled (10_state.md R24). -/
def phaseStep (s : State) : Host.Outcome State Fault Refusal :=
  match s.ph with
  | .idle => .next s
  | .pmExec => stepPmExec s
  | .lgExec => stepLgExec s
  | .init => stepInit s
  | .dispatch => stepDispatch s
  | .fastpath => stepFastpath s
  | .gsZsearch => stepGsZsearch s
  | .gsFactor => stepGsFactor s
  | .gsInitvars => stepGsInitvars s
  | .corrLoop => stepCorrLoop s

/-- The engine's turn: one engine step, enabled exactly when `busy = 1` (20_memory.md R58); an idle
engine lets its turn pass (log 1). -/
def engineStep (s : State) : Host.Outcome State Fault Refusal :=
  if s.busy then phaseStep s else .next s

end Sys2Proof.Machine
end

