-- ==== Sys2Proof/Machine/Flags.lean ====
section
/-! DEFINITION. The status variables as the host sees them: the numbers of the outcome codes and the
STATUS word. There are no arithmetic flags (10_state.md R26). -/

namespace Sys2Proof.Machine

/-- The 4-bit number of an outcome code (60_exceptions.md R161). -/
def codeNumber : Code → Nat
  | .none => 0
  | .ok => 1
  | .noroot => 2
  | .errIllegal => 8
  | .errModzero => 9
  | .errBadp => 10
  | .errInternal => 11

/-- DONE, STATUS bit 1: a command has completed (10_state.md R27). -/
def doneBit (c : Code) : Nat := if c = .none then 0 else 1

/-- BUSY, STATUS bit 0 (10_state.md R27). -/
def busyBit (b : Bool) : Nat := if b then 1 else 0

/-- The value a read of STATUS returns (10_state.md R27). -/
def statusWord (s : State) : Word :=
  BitVec.ofNat 64 (busyBit s.busy + 2 * doneBit s.code + 16 * codeNumber s.code)

/-- A code is a fault code exactly when its bit 3 is 1 (60_exceptions.md R161). -/
def isFaultCode (c : Code) : Bool := 8 ≤ codeNumber c

end Sys2Proof.Machine
end

