-- ==== Sys2Proof/Machine/Port.lean ====
section
/-! DEFINITION. The host port: the two host transactions, the command issue, and the effect of each
event of the total order. -/

namespace Sys2Proof.Machine

/-- The value `HostRead` returns for a register (20_memory.md R52). CMD has no storage and reads 0
(10_state.md R23). -/
def readReg (r : Reg) (s : State) : Word :=
  match r with
  | .opa => s.opa
  | .opb => s.opb
  | .opm => s.opm
  | .cmd => 0#64
  | .status => statusWord s
  | .res => s.res

/-- The value `HostRead(i)` returns; a reserved index reads 0 (20_memory.md R52, R55). -/
def hostReadValue (i : RegIndex) (s : State) : Word :=
  match regOfIndex i with
  | some r => readReg r s
  | none => 0#64

/-- `IssueCommand(v)` (30_encoding.md R73): dropped while busy (R74), rejected with ERR_ILLEGAL if the
word is no command (R76), else the command's acceptance. -/
def issueCommand (v : Word) (s : State) : Host.Outcome State Fault Refusal :=
  if s.busy then .next s
  else
    match decode v with
    | .error _ => .next (complete .errIllegal 0#64 s)
    | .ok i => exec i s

/-- A `HostWrite` to a register (20_memory.md R53): STATUS and RES are read-only. -/
def writeReg (r : Reg) (v : Word) (s : State) : Host.Outcome State Fault Refusal :=
  match r with
  | .opa => .next { s with opa := v }
  | .opb => .next { s with opb := v }
  | .opm => .next { s with opm := v }
  | .cmd => issueCommand v s
  | .status => .next s
  | .res => .next s

/-- `HostWrite(i, v)`; a write to a reserved index has no effect (20_memory.md R53, R55). -/
def hostWrite (i : RegIndex) (v : Word) (s : State) : Host.Outcome State Fault Refusal :=
  match regOfIndex i with
  | some r => writeReg r v s
  | none => .next s

/-- The effect of one event, atomic (20_memory.md R58). -/
def runEvent (e : Event) (s : State) : Host.Outcome State Fault Refusal :=
  match e with
  | .hostRead i => .next (reply (hostReadValue i s) s)
  | .hostWrite i v => hostWrite i v s
  | .engine => engineStep s
  | .reset => .next (resetEngine s)

end Sys2Proof.Machine
end

