-- ==== Sys2Proof/Machine/Step.lean ====
section
/-! DEFINITION. One step of the machine: the next event of the total order. -/

namespace Sys2Proof.Machine

/-- One step: the next event of `inbox` happens (20_memory.md R58). With no event waiting the engine
has its turn, so a busy engine goes on (R59) and an idle one waits (log 1). -/
def step (s : State) : Host.Outcome State Fault Refusal :=
  match s.inbox with
  | [] => engineStep s
  | e :: es => runEvent e { s with inbox := es }

/-- The state whose next event is the host's write of the instruction word to CMD, which is how a
command reaches the engine (30_encoding.md R73, log 6). -/
def State.withFetchWord (s : State) (nbits w : Nat) : State :=
  { s with inbox := .hostWrite 3#3 (BitVec.ofNat 64 (w % 2 ^ nbits)) :: s.inbox }

end Sys2Proof.Machine
end

