-- ==== Sys2Proof/Machine/Script.lean ====
section
/-! DEFINITION. A host that runs a script against the machine (30_encoding.md R78 to R80). The script
is a notation for the host's actions, so the host stands beside the machine, not in its State. -/

namespace Sys2Proof.Machine

/-- The lines a pseudo-line stands for (30_encoding.md R79). -/
def expandLine : PseudoLine → List Line
  | .line l => [l]
  | .cmd i => [.wr .cmd (.mnem i)]
  | .powmod a b m dst =>
    [.wr .opa a, .wr .opb b, .wr .opm m, .wr .cmd (.mnem .powmod), .wait none, .rd .res dst]
  | .legendre n p dst =>
    [.wr .opa n, .wr .opm p, .wr .cmd (.mnem .legendre), .wait none, .rd .res dst]
  | .sqrtmod n p st dst =>
    [.wr .opa n, .wr .opm p, .wr .cmd (.mnem .sqrtmod), .wait st, .rd .res dst]

/-- A script with its pseudo-lines expanded. -/
def expandScript (ls : List PseudoLine) : List Line := ls.flatMap expandLine

/-- The value bound to a name. -/
def lookupName (x : Name) : List (Name × Word) → Option Word
  | [] => none
  | b :: bs => if b.1 = x then some b.2 else lookupName x bs

/-- `<name> := v`, replacing an earlier binding; `_` discards the value (30_encoding.md R78). -/
def bindName (dst : Option Name) (v : Word) (bs : List (Name × Word)) : List (Name × Word) :=
  match dst with
  | none => bs
  | some x => (x, v) :: bs.filter (fun b => b.1 ≠ x)

/-- The word a `<val>` stands for; none for a literal of more than `W` bits or an unbound name, which
R78 excludes. -/
def valWord (bs : List (Name × Word)) : Val → Option Word
  | .lit n => if n < 2 ^ Config.W then some (BitVec.ofNat 64 n) else none
  | .mnem i => some (encode i)
  | .name x => lookupName x bs

/-- The transaction a line makes: a `wr` line is the pair (index, value), a `rd` line the index alone
(30_encoding.md R80), a `wait` line a read of STATUS (R79). -/
def lineEvent (bs : List (Name × Word)) : Line → Option Event
  | .wr r v => (valWord bs v).map (.hostWrite (regIndex r))
  | .rd r _ => some (.hostRead (regIndex r))
  | .wait _ => some (.hostRead (regIndex .status))

/-- A machine, the lines its host has still to run, and the names bound so far. -/
structure Session where
  machine : State
  script : List Line
  names : List (Name × Word)
  deriving DecidableEq, Repr

/-- Why a session stops. -/
inductive ScriptStop where
  /-- The machine's step stopped. Safe. -/
  | machine (f : Fault)
  /-- The machine's step was refused. Safe. -/
  | refused (r : Refusal)
  /-- A line uses an unbound name or a literal of more than `W` bits: no script by R78. Safe
  (log 11). -/
  | badLine
  deriving DecidableEq, Repr

/-- The script and names after a line whose read returned `v`. A `wait` is `rd STATUS -> _st`, so it
binds `_st` at every read; one that saw BUSY = 1 is repeated, and the last also binds the name of
`wait -> <name>` (30_encoding.md R79). -/
def afterLine (l : Line) (ls : List Line) (v : Word) (bs : List (Name × Word)) :
    List Line × List (Name × Word) :=
  match l with
  | .wr _ _ => (ls, bs)
  | .rd _ dst => (ls, bindName dst v bs)
  | .wait dst =>
    let polled := bindName (some stName) v bs
    if v.toNat % 2 = 1 then (l :: ls, polled) else (ls, bindName dst v polled)

/-- The host's turn: one transaction, the one the script's next line makes. -/
def hostTurn (x : Session) : Except ScriptStop Session :=
  match x.script with
  | [] => .ok x
  | l :: ls =>
    match lineEvent x.names l with
    | none => .error .badLine
    | some e =>
      match step { x.machine with inbox := e :: x.machine.inbox } with
      | .next t =>
        let after := afterLine l ls (t.replies.headD 0#64) x.names
        .ok { machine := t, script := after.1, names := after.2 }
      | .fault f => .error (.machine f)
      | .refused r => .error (.refused r)

/-- The engine's turn. -/
def engineTurn (x : Session) : Except ScriptStop Session :=
  match step { x.machine with inbox := .engine :: x.machine.inbox } with
  | .next t => .ok { x with machine := t }
  | .fault f => .error (.machine f)
  | .refused r => .error (.refused r)

/-- Who moves next. -/
inductive Turn where
  | host
  | engine
  deriving DecidableEq, Repr

/-- A session under a schedule: between two host transactions any number of engine steps may occur
(20_memory.md R58), so any list of turns is a schedule. -/
def runSession : List Turn → Session → Except ScriptStop Session
  | [], x => .ok x
  | .host :: ts, x =>
    match hostTurn x with
    | .ok y => runSession ts y
    | .error e => .error e
  | .engine :: ts, x =>
    match engineTurn x with
    | .ok y => runSession ts y
    | .error e => .error e

end Sys2Proof.Machine
end

