-- ==== Sys2Proof/Safety.lean ====
section
/-! DEFINITION. What a safe run is: the ranges and relations every reachable state keeps, runs of
engine steps and of events, and which parts of two states can be told apart. -/

namespace Sys2Proof.Machine

/-- The opcode latched while a phase runs (10_state.md R24, R29). -/
def phaseOpcode : Phase → BitVec 8
  | .idle => 0#8
  | .pmExec => 0x01#8
  | .lgExec => 0x02#8
  | .init => 0x03#8
  | .dispatch => 0x03#8
  | .fastpath => 0x03#8
  | .gsZsearch => 0x03#8
  | .gsFactor => 0x03#8
  | .gsInitvars => 0x03#8
  | .corrLoop => 0x03#8

/-- The phases whose modulus is odd and at least 3: LG_EXEC and all of SQRTMOD. -/
def Phase.oddModulus : Phase → Bool
  | .idle | .pmExec => false
  | .lgExec | .init | .dispatch | .fastpath | .gsZsearch | .gsFactor | .gsInitvars | .corrLoop => true

/-- The phases of SQRTMOD after INIT. -/
def Phase.afterInit : Phase → Bool
  | .idle | .pmExec | .lgExec | .init => false
  | .dispatch | .fastpath | .gsZsearch | .gsFactor | .gsInitvars | .corrLoop => true

/-- The phases of SQRTMOD after DISPATCH. -/
def Phase.afterDispatch : Phase → Bool
  | .idle | .pmExec | .lgExec | .init | .dispatch => false
  | .fastpath | .gsZsearch | .gsFactor | .gsInitvars | .corrLoop => true

/-- The phases of SQRTMOD's general path. -/
def Phase.general : Phase → Bool
  | .idle | .pmExec | .lgExec | .init | .dispatch | .fastpath => false
  | .gsZsearch | .gsFactor | .gsInitvars | .corrLoop => true

/-- The phases of SQRTMOD after the non-residue search. -/
def Phase.afterSearch : Phase → Bool
  | .idle | .pmExec | .lgExec | .init | .dispatch | .fastpath | .gsZsearch => false
  | .gsFactor | .gsInitvars | .corrLoop => true

/-- The phases of SQRTMOD after GS_FACTOR. -/
def Phase.afterFactor : Phase → Bool
  | .idle | .pmExec | .lgExec | .init | .dispatch | .fastpath | .gsZsearch | .gsFactor => false
  | .gsInitvars | .corrLoop => true

/-- The invariant of the machine: 10_state.md R26 and R35, 60_exceptions.md R164, and the loop
invariant of 42_sqrt_mod.md R139. -/
structure Inv (s : State) : Prop where
  /-- R26 -/
  busy_iff : s.busy = true ↔ s.ph ≠ .idle
  /-- R26 -/
  busy_code : s.busy = true → s.code = .none
  /-- R164 -/
  res_zero : s.code ≠ .ok → s.res = 0#64
  /-- R29 -/
  op : s.busy = true → s.wOp = phaseOpcode s.ph
  /-- R95, R96 -/
  pm_modulus : s.ph = .pmExec → 0 < s.wP.toNat
  /-- R35, R112, R126 -/
  odd_modulus : s.ph.oddModulus = true → s.wP.toNat % 2 = 1 ∧ 3 ≤ s.wP.toNat
  /-- R35, R130 -/
  n_range : s.ph.afterInit = true →
    0 < s.wN.toNat ∧ s.wN.toNat < s.wP.toNat ∧ s.wN.toNat = s.wA.toNat % s.wP.toNat
  /-- R131: DISPATCH found `Legendre(w.n, p) = 1` -/
  n_residue : s.ph.afterDispatch = true →
    s.wN.toNat ^ ((s.wP.toNat - 1) / 2) % s.wP.toNat = 1
  /-- R131 -/
  fastpath_mod_four : s.ph = .fastpath → s.wP.toNat % 4 = 3
  /-- R131 -/
  general_mod_four : s.ph.general = true → s.wP.toNat % 4 = 1
  /-- R35, R138 -/
  z_range : s.ph.general = true → 2 ≤ s.wZ.toNat ∧ s.wZ.toNat ≤ s.wP.toNat
  /-- R122, R133: every candidate below `w.z` was tried and has Legendre value 1 -/
  z_least : s.ph.general = true → ∀ y, y < s.wZ.toNat → 2 ≤ y →
    y ^ ((s.wP.toNat - 1) / 2) % s.wP.toNat = 1
  /-- R133: GS_ZSEARCH ended on a `z` with `Legendre(z, p) ≠ 1` -/
  z_nonresidue : s.ph.afterSearch = true →
    s.wZ.toNat ^ ((s.wP.toNat - 1) / 2) % s.wP.toNat ≠ 1
  /-- R35 -/
  factored : s.ph.afterFactor = true →
    s.wP.toNat - 1 = 2 ^ s.wS.toNat * s.wQ.toNat ∧ s.wQ.toNat % 2 = 1 ∧
      2 ≤ s.wS.toNat ∧ s.wS.toNat ≤ 63
  /-- R35 -/
  search_range : s.ph = .corrLoop →
    s.wC.toNat < s.wP.toNat ∧ s.wR.toNat < s.wP.toNat ∧ s.wT.toNat < s.wP.toNat ∧
      1 ≤ s.wM.toNat ∧ s.wM.toNat ≤ s.wS.toNat
  /-- R139 -/
  root_invariant : s.ph = .corrLoop →
    s.wR.toNat * s.wR.toNat % s.wP.toNat = s.wT.toNat * s.wN.toNat % s.wP.toNat

/-- The two further invariants of the correction loop for a prime modulus (42_sqrt_mod.md R145):
`t^(2^(m-1)) ≡ 1` and `c^(2^(m-1)) ≡ -1 (mod p)`. -/
def OrderInv (s : State) : Prop :=
  s.wT.toNat ^ 2 ^ (s.wM.toNat - 1) % s.wP.toNat = 1 ∧
    s.wC.toNat ^ 2 ^ (s.wM.toNat - 1) % s.wP.toNat = s.wP.toNat - 1

/-- `k` turns of the engine and nothing else; an engine that has completed lets the rest pass. -/
def engineRun : Nat → State → Host.Outcome State Fault Refusal
  | 0, s => .next s
  | k + 1, s =>
    match engineStep s with
    | .next t => engineRun k t
    | .fault f => .fault f
    | .refused r => .refused r

/-- The events of a list, in order. -/
def eventRun : List Event → State → Host.Outcome State Fault Refusal
  | [], s => .next s
  | e :: es, s =>
    match runEvent e s with
    | .next t => eventRun es t
    | .fault f => .fault f
    | .refused r => .refused r

/-- The events of a list, in order, as far as the running command: once it has completed nothing more
happens. -/
def commandRun : List Event → State → Host.Outcome State Fault Refusal
  | [], s => .next s
  | e :: es, s =>
    if s.busy = false then .next s
    else
      match runEvent e s with
      | .next t => commandRun es t
      | .fault f => .fault f
      | .refused r => .refused r

/-- An event that is neither a reset nor a command issue: a read, a write that is not to CMD, or the
engine's turn. -/
def Event.issuesNothing : Event → Bool
  | .hostRead _ => true
  | .hostWrite i _ => i != 3#3
  | .engine => true
  | .reset => false

/-- How many turns of the engine a list of events holds. -/
def engineTurns (es : List Event) : Nat := es.count .engine

/-- The state without what only the host writes and sees: the operand registers, the events to come
and the replies given. -/
def engineView (s : State) : State :=
  { s with opa := 0#64, opb := 0#64, opm := 0#64, inbox := [], replies := [] }

/-- An outcome with its state seen through `engineView`. -/
def viewOutcome : Host.Outcome State Fault Refusal → Host.Outcome State Fault Refusal
  | .next s => .next (engineView s)
  | .fault f => .fault f
  | .refused r => .refused r

/-- The phases in which `w.n` will still be read (10_state.md R31). -/
def Phase.needsN : Phase → Bool
  | .idle | .pmExec | .lgExec | .init | .corrLoop => false
  | .dispatch | .fastpath | .gsZsearch | .gsFactor | .gsInitvars => true

/-- The phases in which `w.z` will still be read. -/
def Phase.needsZ : Phase → Bool
  | .idle | .pmExec | .lgExec | .init | .dispatch | .fastpath | .corrLoop => false
  | .gsZsearch | .gsFactor | .gsInitvars => true

/-- Two states that agree on everything but hidden registers that are written again before they are
read (10_state.md R31). -/
structure SameLive (a b : State) : Prop where
  opa : a.opa = b.opa
  opb : a.opb = b.opb
  opm : a.opm = b.opm
  res : a.res = b.res
  busy : a.busy = b.busy
  code : a.code = b.code
  ph : a.ph = b.ph
  inbox : a.inbox = b.inbox
  replies : a.replies = b.replies
  latched : a.ph ≠ .idle → a.wA = b.wA ∧ a.wB = b.wB ∧ a.wP = b.wP
  n : a.ph.needsN = true → a.wN = b.wN
  z : a.ph.needsZ = true → a.wZ = b.wZ
  sq : a.ph = .gsInitvars → a.wS = b.wS ∧ a.wQ = b.wQ
  search : a.ph = .corrLoop → a.wC = b.wC ∧ a.wR = b.wR ∧ a.wT = b.wT ∧ a.wM = b.wM

/-- Two outcomes that no host can tell apart: next states that agree so, or the same stop. -/
def SameLiveOutcome :
    Host.Outcome State Fault Refusal → Host.Outcome State Fault Refusal → Prop
  | .next a, .next b => SameLive a b
  | .fault f, .fault g => f = g
  | .refused r, .refused q => r = q
  | .next _, .fault _ => False
  | .next _, .refused _ => False
  | .fault _, .next _ => False
  | .fault _, .refused _ => False
  | .refused _, .next _ => False
  | .refused _, .fault _ => False

end Sys2Proof.Machine
end

