-- ==== Sys2Proof/Certificates/Slice0/Obligations.lean ====
section
/-! DEFINITION. The statements for the provers. Each docstring names the rule of spec/ it comes from.
Natural numbers stand for the values of the words throughout; the model's functions appear only where
the rule names them. -/

open Sys2Proof Sys2Proof.Machine

/-! ### Encoding, fetch -/

/-- 30_encoding.md R72, R76: the three command words, and three words that are none. -/
def Obligations.CommandWordsDecodeAsTabled : Prop :=
  decode 0x0000000000000001#64 = .ok .powmod ∧
  decode 0x0000000000000002#64 = .ok .legendre ∧
  decode 0x0000000000000003#64 = .ok .sqrtmod ∧
  decode 0x0000000000000000#64 = .error .opcode ∧
  decode 0x00000000000000FF#64 = .error .opcode ∧
  decode 0x8000000000000003#64 = .error .reservedBits

/-- 30_encoding.md R70, R72, R76: a word decodes to a command exactly when it is that command's
encoding, and the words that decode to none are exactly those other than 1, 2 and 3. -/
def Obligations.DecodeAcceptsExactlyTheEncodings : Prop :=
  ∀ v : Word,
    (∀ i : Instr, decode v = .ok i ↔ v = encode i) ∧
    ((∃ e, decode v = .error e) ↔ v.toNat ≠ 1 ∧ v.toNat ≠ 2 ∧ v.toNat ≠ 3)

/-- 30_encoding.md R73, 20_memory.md R58: when the next event is the write to CMD of a word that
decodes to a command, the step is that command's `exec`, on the state whose event has been taken; the
placing of a word by `withFetchWord` adds exactly that event. A step takes the next event, whichever
of the four kinds it is, and nothing more; the engine's event is one engine step. That a step with no
event waiting is the engine's turn is the model's choice (log 1). -/
def Obligations.StepRunsTheDecodedCommand : Prop :=
  (∀ (s : State) (v : Word) (i : Instr), decode v = .ok i → i.wf = true →
    step (s.withFetchWord 64 v.toNat) = exec i s ∧
    ∀ es, s.inbox = .hostWrite 3#3 v :: es → step s = exec i { s with inbox := es }) ∧
  (∀ (s : State) (e : Event) (es : List Event), s.inbox = e :: es →
    step s = runEvent e { s with inbox := es }) ∧
  (∀ s : State, runEvent .engine s = engineStep s) ∧
  ∀ s : State, s.inbox = [] → step s = engineStep s

/-! ### Reset -/

/-- 10_state.md R34, the values the spec gives, and its last sentence: a command issued straight after
reset ends with ERR_MODZERO (POWMOD) or ERR_BADP (LEGENDRE, SQRTMOD). -/
def Obligations.ResetLeavesTheStatedValues : Prop :=
  State.reset.opa = 0#64 ∧ State.reset.opb = 0#64 ∧ State.reset.opm = 0#64 ∧
  State.reset.res = 0#64 ∧ State.reset.busy = false ∧ State.reset.code = .none ∧
  State.reset.ph = .idle ∧ hostReadValue 4#3 State.reset = 0#64 ∧
  (∃ t, exec .powmod State.reset = .next t ∧ t.code = .errModzero ∧ t.busy = false) ∧
  (∃ t, exec .legendre State.reset = .next t ∧ t.code = .errBadp ∧ t.busy = false) ∧
  (∃ t, exec .sqrtmod State.reset = .next t ∧ t.code = .errBadp ∧ t.busy = false)

/-- 70_reset_and_hazards.md R190, R191: a reset event, in any state, gives the reset values the spec
states, and the state after it does not depend on what the engine was doing. That the reset event
gives the unspecified hidden registers one value for every run is the model's choice (log 3); the last
clause rests on it for those registers. -/
def Obligations.ResetEventAbortsWithoutTrace : Prop :=
  (∀ (s : State) (es : List Event), s.inbox = .reset :: es →
    ∃ t, step s = .next t ∧ t.opa = 0#64 ∧ t.opb = 0#64 ∧ t.opm = 0#64 ∧ t.res = 0#64 ∧
      t.busy = false ∧ t.code = .none ∧ t.ph = .idle ∧ t.inbox = es ∧ t.replies = s.replies) ∧
  (∀ (s₁ s₂ : State) (es : List Event), s₁.inbox = .reset :: es → s₂.inbox = .reset :: es →
    s₁.replies = s₂.replies → step s₁ = step s₂)

/-! ### Invariant -/

/-- The reset state meets the invariant. -/
def Obligations.ResetMeetsTheInvariant : Prop := Inv State.reset

/-- 10_state.md R26, R35, 42_sqrt_mod.md R139, 60_exceptions.md R164: every step keeps the
invariant, whatever event it takes. -/
def Obligations.EveryStepKeepsTheInvariant : Prop :=
  ∀ s t : State, Inv s → step s = .next t → Inv t

/-- 40_pow_mod.md R101, R102: from a state that meets the invariant no step stops the machine: no
function is called outside its domain and no stored value exceeds `W` bits. No state at all makes a
step refuse. -/
def Obligations.NoStepStopsUnderTheInvariant : Prop :=
  (∀ s : State, Inv s → ∃ t, step s = .next t) ∧ ∀ (s : State) (r : Refusal), step s ≠ .refused r

/-- 93_implementation_defined.md U1, U2: in a state no run reaches, whose modulus lies outside the
domain of the phase's function, the model stops by name (the model's choice, log 4). -/
def Obligations.PhasesStopOutsideTheirDomain : Prop :=
  ∀ s : State, s.busy = true →
    (s.ph = .pmExec → s.wP.toNat = 0 → engineStep s = .fault .modulusUndefined) ∧
    (s.ph.oddModulus = true → s.wP.toNat % 2 = 0 ∨ s.wP.toNat < 3 →
      engineStep s = .fault .modulusUndefined)

/-! ### The host port -/

/-- 20_memory.md R52: what `HostRead` returns for each index, that it changes nothing but the host's
own record, that a second read returns the same, and what it returns while busy. -/
def Obligations.HostReadReturnsAndChangesNothing : Prop :=
  (∀ (s : State) (i : RegIndex),
    ∃ v : Word, runEvent (.hostRead i) s = .next { s with replies := v :: s.replies } ∧
      v.toNat =
        (if i.toNat = 0 then s.opa.toNat
        else if i.toNat = 1 then s.opb.toNat
        else if i.toNat = 2 then s.opm.toNat
        else if i.toNat = 4 then
          (if s.busy = true then 1 else 0) + 2 * (if s.code ≠ .none then 1 else 0) +
            16 * codeNumber s.code
        else if i.toNat = 5 then s.res.toNat
        else 0) ∧
      runEvent (.hostRead i) { s with replies := v :: s.replies } =
        .next { s with replies := v :: v :: s.replies }) ∧
  (∀ s : State, Inv s → s.busy = true →
    hostReadValue 4#3 s = 0x01#64 ∧ hostReadValue 5#3 s = 0#64)

/-- 20_memory.md R53: a `HostWrite` to an operand register stores the whole value and changes nothing
else, in every state, busy or not; a write to STATUS, RES or a reserved index has no effect; a write
to CMD is the command issue, whose every case is `CmdWriteDecidesTheIssue`. -/
def Obligations.HostWriteStoresIssuesOrHasNoEffect : Prop :=
  ∀ (s : State) (i : RegIndex) (v : Word),
    runEvent (.hostWrite i v) s =
      if i.toNat = 3 then issueCommand v s
      else .next
        { s with
          opa := if i.toNat = 0 then v else s.opa
          opb := if i.toNat = 1 then v else s.opb
          opm := if i.toNat = 2 then v else s.opm }

/-- 30_encoding.md R73, R74: what a write of any word to CMD does, in any state. -/
def Obligations.CmdWriteDecidesTheIssue : Prop :=
  ∀ (s : State) (v : Word),
    runEvent (.hostWrite 3#3 v) s =
      if s.busy = true then .next s
      else if v.toNat ≠ 1 ∧ v.toNat ≠ 2 ∧ v.toNat ≠ 3 then
        .next { s with res := 0#64, code := .errIllegal, busy := false, ph := .idle }
      else if v.toNat = 1 then
        (if s.opm.toNat = 0 then
          .next { s with
            wOp := 1#8, wA := s.opa, wB := s.opb, wP := s.opm, res := 0#64
            code := .errModzero, busy := false, ph := .idle }
        else
          .next { s with
            wOp := 1#8, wA := s.opa, wB := s.opb, wP := s.opm, res := 0#64
            code := .none, busy := true, ph := .pmExec })
      else if s.opm.toNat % 2 = 0 ∨ s.opm.toNat < 3 then
        .next { s with
          wOp := BitVec.ofNat 8 v.toNat, wA := s.opa, wB := s.opb, wP := s.opm, res := 0#64
          code := .errBadp, busy := false, ph := .idle }
      else
        .next { s with
          wOp := BitVec.ofNat 8 v.toNat, wA := s.opa, wB := s.opb, wP := s.opm, res := 0#64
          code := .none, busy := true, ph := if v.toNat = 2 then .lgExec else .init }

/-- 10_state.md R27: the layout of STATUS, bit by bit, that BUSY and DONE are never both 1, that bit 7
marks the fault codes, the complete list of its values, each with what it stands for, and that a write
to it changes nothing. -/
def Obligations.StatusReadsAsLaidOut : Prop :=
  ∀ s : State, Inv s →
    ((hostReadValue 4#3 s).getLsbD 0 = s.busy ∧
      ((hostReadValue 4#3 s).getLsbD 1 = true ↔ s.code ≠ .none) ∧
      (hostReadValue 4#3 s).extractLsb' 2 2 = 0#2 ∧
      ((hostReadValue 4#3 s).extractLsb' 4 4).toNat = codeNumber s.code ∧
      (hostReadValue 4#3 s).extractLsb' 8 56 = 0#56) ∧
    (hostReadValue 4#3 s).toNat =
      (if s.busy = true then 1 else 0) + 2 * (if s.code ≠ .none then 1 else 0) +
        16 * codeNumber s.code ∧
    ¬((hostReadValue 4#3 s).getLsbD 0 = true ∧ (hostReadValue 4#3 s).getLsbD 1 = true) ∧
    ((hostReadValue 4#3 s).getLsbD 7 = true ↔
      s.code = .errIllegal ∨ s.code = .errModzero ∨ s.code = .errBadp ∨ s.code = .errInternal) ∧
    (hostReadValue 4#3 s).toNat ∈ [0x00, 0x01, 0x12, 0x22, 0x82, 0x92, 0xA2, 0xB2] ∧
    ((hostReadValue 4#3 s).toNat = 0x00 ↔ s.code = .none ∧ s.busy = false) ∧
    ((hostReadValue 4#3 s).toNat = 0x01 ↔ s.busy = true) ∧
    ((hostReadValue 4#3 s).toNat = 0x12 ↔ s.code = .ok) ∧
    ((hostReadValue 4#3 s).toNat = 0x22 ↔ s.code = .noroot) ∧
    ((hostReadValue 4#3 s).toNat = 0x82 ↔ s.code = .errIllegal) ∧
    ((hostReadValue 4#3 s).toNat = 0x92 ↔ s.code = .errModzero) ∧
    ((hostReadValue 4#3 s).toNat = 0xA2 ↔ s.code = .errBadp) ∧
    ((hostReadValue 4#3 s).toNat = 0xB2 ↔ s.code = .errInternal) ∧
    ∀ v : Word, runEvent (.hostWrite 4#3 v) s = .next s

/-- 10_state.md R21: OPA, OPB and OPM are plain storage. A step changes one only when its event is a
host write to it or a reset, a read returns what it holds, and no engine step writes or reads them. -/
def Obligations.OperandRegistersArePlainStorage : Prop :=
  (∀ (s t : State) (e : Event), runEvent e s = .next t →
    (t.opa = match e with
      | .hostWrite i v => if i.toNat = 0 then v else s.opa
      | .reset => 0#64
      | .hostRead _ => s.opa
      | .engine => s.opa) ∧
    (t.opb = match e with
      | .hostWrite i v => if i.toNat = 1 then v else s.opb
      | .reset => 0#64
      | .hostRead _ => s.opb
      | .engine => s.opb) ∧
    (t.opm = match e with
      | .hostWrite i v => if i.toNat = 2 then v else s.opm
      | .reset => 0#64
      | .hostRead _ => s.opm
      | .engine => s.opm)) ∧
  (∀ s : State, hostReadValue 0#3 s = s.opa ∧ hostReadValue 1#3 s = s.opb ∧
    hostReadValue 2#3 s = s.opm) ∧
  (∀ (s t : State) (a b m : Word), engineStep s = .next t →
    engineStep { s with opa := a, opb := b, opm := m } =
      .next { t with opa := a, opb := b, opm := m })

/-- 10_state.md R22, 20_memory.md R60: once a command has completed, reads, operand writes and turns
of the engine leave `code` and RES as they are, however many there are, so STATUS and RES read
together. -/
def Obligations.ResultStaysUntilTheNextIssue : Prop :=
  ∀ (es : List Event) (s : State), s.busy = false → (∀ e ∈ es, e.issuesNothing = true) →
    ∃ t, eventRun es s = .next t ∧ t.busy = false ∧ t.code = s.code ∧ t.res = s.res ∧
      hostReadValue 4#3 t = hostReadValue 4#3 s ∧ hostReadValue 5#3 t = hostReadValue 5#3 s

/-- 10_state.md R29, 20_memory.md R53, 30_encoding.md R74: what the engine does with a running command
does not depend on the host's transactions, only on how many turns the engine has had. -/
def Obligations.RunningCommandIgnoresTheHost : Prop :=
  ∀ (es : List Event) (s : State), .reset ∉ es →
    viewOutcome (commandRun es s) = viewOutcome (engineRun (engineTurns es) s)

/-- 10_state.md R31, decision D30: two states that differ only in hidden registers that are written
again before they are read go, by every step, to two such states or to the same stop; `SameLive`
holds the host's replies equal, so no host can tell them apart. -/
def Obligations.HiddenRegistersAreUnobservable : Prop :=
  ∀ a b : State, SameLive a b → SameLiveOutcome (step a) (step b)

/-- 00_scope.md R7: the outcome of an accepted command is a function of the opcode and of the three
operand registers at acceptance: any two idle states with those equal, and any two interleavings of
engine turns and host transactions, end in the same `code` and RES. -/
def Obligations.OutcomeIsAFunctionOfTheOperands : Prop :=
  ∀ (i : Instr) (s₁ s₂ t₁ t₂ u₁ u₂ : State) (es₁ es₂ : List Event),
    s₁.busy = false → s₂.busy = false →
    s₁.opa = s₂.opa → s₁.opb = s₂.opb → s₁.opm = s₂.opm →
    exec i s₁ = .next t₁ → exec i s₂ = .next t₂ →
    .reset ∉ es₁ → .reset ∉ es₂ →
    commandRun es₁ t₁ = .next u₁ → commandRun es₂ t₂ = .next u₂ →
    u₁.busy = false → u₂.busy = false →
    u₁.code = u₂.code ∧ u₁.res = u₂.res

/-- 00_scope.md R8, 10_state.md R30: an engine step changes only RES, `code`, `busy`, `ph` and working
registers, and each working register only in the phases R30 lists for it. -/
def Obligations.EngineStepsKeepTheirFrame : Prop :=
  ∀ s t : State, engineStep s = .next t →
    (t.opa = s.opa ∧ t.opb = s.opb ∧ t.opm = s.opm ∧ t.wOp = s.wOp ∧ t.wA = s.wA ∧
      t.wB = s.wB ∧ t.wP = s.wP ∧ t.inbox = s.inbox ∧ t.replies = s.replies) ∧
    (s.ph ≠ .init → t.wN = s.wN) ∧
    (s.ph ≠ .dispatch → s.ph ≠ .gsZsearch → t.wZ = s.wZ) ∧
    (s.ph ≠ .gsFactor → t.wS = s.wS ∧ t.wQ = s.wQ) ∧
    (s.ph ≠ .gsInitvars → s.ph ≠ .corrLoop →
      t.wC = s.wC ∧ t.wR = s.wR ∧ t.wT = s.wT ∧ t.wM = s.wM) ∧
    (t.busy = true → t.res = s.res ∧ t.code = s.code)

/-! ### POWMOD -/

/-- 40_pow_mod.md R92: `PowMod` is the exact power reduced, and each round of its loop keeps
`acc * bb^e` modulo `m`. -/
def Obligations.PowModIsTheExactPower : Prop :=
  (∀ (b e : Word) (m : Modulus),
    (powMod b e m).toNat = b.toNat ^ e.toNat % m.val.toNat) ∧
  (∀ (m : Modulus) (x : PowVars),
    (powRound m x).acc.toNat * (powRound m x).bb.toNat ^ (powRound m x).e.toNat % m.val.toNat =
      x.acc.toNat * x.bb.toNat ^ x.e.toNat % m.val.toNat)

/-- 40_pow_mod.md R93: the result, and every intermediate `acc` and `bb`, lies in `[0, m)`. -/
def Obligations.PowModStaysBelowTheModulus : Prop :=
  ∀ (b e : Word) (m : Modulus),
    (powMod b e m).toNat < m.val.toNat ∧
    ∀ k : Nat,
      (powLoop m k (powStart b e m)).acc.toNat < m.val.toNat ∧
      (powLoop m k (powStart b e m)).bb.toNat < m.val.toNat

/-- 40_pow_mod.md R98, R99: the edge cases of `PowMod`. -/
def Obligations.PowModEdgeCasesHold : Prop :=
  ∀ (b e : Word) (m : Modulus),
    (powMod b 0#64 m).toNat = (if 1 < m.val.toNat then 1 else 0) ∧
    (m.val.toNat = 1 → (powMod b e m).toNat = 0) ∧
    (b.toNat % m.val.toNat = 0 → 0 < e.toNat → (powMod b e m).toNat = 0) ∧
    (b.toNat % m.val.toNat = 1 → 1 < m.val.toNat → (powMod b e m).toNat = 1) ∧
    (powMod b 1#64 m).toNat = b.toNat % m.val.toNat

/-- 40_pow_mod.md R96, with R94 and R95: POWMOD issued on an idle engine with a nonzero modulus
becomes busy in PM_EXEC and changes nothing but the latched command, RES, `code`, `busy` and `ph`; its
one engine step completes it with OK and the power, and changes nothing else. The step is stated for
every state in PM_EXEC with a nonzero modulus. -/
def Obligations.PowmodAcceptsAndCompletes : Prop :=
  (∀ s : State, s.busy = false → s.opm.toNat ≠ 0 →
    ∃ t u, exec .powmod s = .next t ∧
      t = { s with
        wOp := 0x01#8, wA := s.opa, wB := s.opb, wP := s.opm, res := 0#64
        code := .none, busy := true, ph := .pmExec } ∧
      engineStep t = .next u ∧
      u = { t with
        res := BitVec.ofNat 64 (s.opa.toNat ^ s.opb.toNat % s.opm.toNat)
        code := .ok, busy := false, ph := .idle } ∧
      u.res.toNat = s.opa.toNat ^ s.opb.toNat % s.opm.toNat) ∧
  (∀ s : State, s.busy = true → s.ph = .pmExec → s.wP.toNat ≠ 0 →
    engineStep s = .next { s with
      res := BitVec.ofNat 64 (s.wA.toNat ^ s.wB.toNat % s.wP.toNat)
      code := .ok, busy := false, ph := .idle })

/-- 40_pow_mod.md R95: POWMOD on an idle engine with `x[OPM] = 0` completes at once with ERR_MODZERO
and RES 0; any modulus of at least 1 is accepted. While busy the issue is dropped. -/
def Obligations.PowmodChecksOnlyForModulusZero : Prop :=
  ∀ s : State,
    (s.busy = false → s.opm.toNat = 0 →
      exec .powmod s = .next { s with
        wOp := 0x01#8, wA := s.opa, wB := s.opb, wP := s.opm, res := 0#64
        code := .errModzero, busy := false, ph := .idle }) ∧
    (s.busy = false → 1 ≤ s.opm.toNat → ∃ t, exec .powmod s = .next t ∧ t.busy = true) ∧
    (s.busy = true → exec .powmod s = .next s)

/-! ### LEGENDRE -/

/-- 41_legendre.md R113, with R114 and R110: LEGENDRE issued on an idle engine with an odd modulus of
at least 3, prime or not, becomes busy in LG_EXEC; its one engine step completes it with OK and the
literal `n^((p-1)/2) mod p`. The step is stated for every state in LG_EXEC with such a modulus. -/
def Obligations.LegendreAcceptsAndCompletes : Prop :=
  (∀ s : State, s.busy = false → s.opm.toNat % 2 = 1 → 3 ≤ s.opm.toNat →
    ∃ t u, exec .legendre s = .next t ∧
      t = { s with
        wOp := 0x02#8, wA := s.opa, wB := s.opb, wP := s.opm, res := 0#64
        code := .none, busy := true, ph := .lgExec } ∧
      engineStep t = .next u ∧
      u = { t with
        res := BitVec.ofNat 64 (s.opa.toNat ^ ((s.opm.toNat - 1) / 2) % s.opm.toNat)
        code := .ok, busy := false, ph := .idle } ∧
      u.res.toNat = s.opa.toNat ^ ((s.opm.toNat - 1) / 2) % s.opm.toNat) ∧
  (∀ s : State, s.busy = true → s.ph = .lgExec → s.wP.toNat % 2 = 1 → 3 ≤ s.wP.toNat →
    engineStep s = .next { s with
      res := BitVec.ofNat 64 (s.wA.toNat ^ ((s.wP.toNat - 1) / 2) % s.wP.toNat)
      code := .ok, busy := false, ph := .idle })

/-- 41_legendre.md R112: LEGENDRE on an idle engine with an even modulus or one below 3 completes at
once with ERR_BADP and RES 0; every other modulus is accepted. While busy the issue is dropped. -/
def Obligations.LegendreChecksParityAndSize : Prop :=
  ∀ s : State,
    (s.busy = false → s.opm.toNat % 2 = 0 ∨ s.opm.toNat < 3 →
      exec .legendre s = .next { s with
        wOp := 0x02#8, wA := s.opa, wB := s.opb, wP := s.opm, res := 0#64
        code := .errBadp, busy := false, ph := .idle }) ∧
    (s.busy = false → s.opm.toNat % 2 = 1 → 3 ≤ s.opm.toNat →
      ∃ t, exec .legendre s = .next t ∧ t.busy = true) ∧
    (s.busy = true → exec .legendre s = .next s)

/-- 41_legendre.md R111, Euler's criterion: for an odd prime modulus the Legendre value is 0, 1 or
`p - 1`; 0 exactly for `n ≡ 0`, 1 exactly for a nonzero residue, `p - 1` exactly for a non-residue. -/
def Obligations.LegendreValueMeetsEulersCriterion : Prop :=
  ∀ (n : Word) (p : OddModulus), p.val.toNat.Prime →
    ((legendreValue n p).toNat = 0 ∨ (legendreValue n p).toNat = 1 ∨
      (legendreValue n p).toNat = p.val.toNat - 1) ∧
    ((legendreValue n p).toNat = 0 ↔ n.toNat % p.val.toNat = 0) ∧
    ((legendreValue n p).toNat = 1 ↔
      n.toNat % p.val.toNat ≠ 0 ∧ ∃ x : Nat, x * x % p.val.toNat = n.toNat % p.val.toNat) ∧
    ((legendreValue n p).toNat = p.val.toNat - 1 ↔
      ¬∃ x : Nat, x * x % p.val.toNat = n.toNat % p.val.toNat)

/-! ### SQRTMOD: acceptance and the phases -/

/-- 42_sqrt_mod.md R126: SQRTMOD on an idle engine with an even modulus or one below 3 completes at
once with ERR_BADP and RES 0; every other modulus is accepted. While busy the issue is dropped. -/
def Obligations.SqrtmodChecksParityAndSize : Prop :=
  ∀ s : State,
    (s.busy = false → s.opm.toNat % 2 = 0 ∨ s.opm.toNat < 3 →
      exec .sqrtmod s = .next { s with
        wOp := 0x03#8, wA := s.opa, wB := s.opb, wP := s.opm, res := 0#64
        code := .errBadp, busy := false, ph := .idle }) ∧
    (s.busy = false → s.opm.toNat % 2 = 1 → 3 ≤ s.opm.toNat →
      ∃ t, exec .sqrtmod s = .next t ∧ t.busy = true) ∧
    (s.busy = true → exec .sqrtmod s = .next s)

/-- 42_sqrt_mod.md R130, step INIT. -/
def Obligations.InitReducesTheOperand : Prop :=
  ∀ s : State, s.busy = true → s.ph = .init → s.wP.toNat % 2 = 1 → 3 ≤ s.wP.toNat →
    engineStep s =
      if s.wA.toNat % s.wP.toNat = 0 then
        .next { s with wN := 0#64, res := 0#64, code := .ok, busy := false, ph := .idle }
      else .next { s with wN := BitVec.ofNat 64 (s.wA.toNat % s.wP.toNat), ph := .dispatch }

/-- 42_sqrt_mod.md R131, step DISPATCH. -/
def Obligations.DispatchTestsTheResidueAndSplits : Prop :=
  ∀ s : State, s.busy = true → s.ph = .dispatch → s.wP.toNat % 2 = 1 → 3 ≤ s.wP.toNat →
    engineStep s =
      if s.wN.toNat ^ ((s.wP.toNat - 1) / 2) % s.wP.toNat ≠ 1 then
        .next { s with res := 0#64, code := .noroot, busy := false, ph := .idle }
      else if s.wP.toNat % 4 = 3 then .next { s with ph := .fastpath }
      else .next { s with wZ := 2#64, ph := .gsZsearch }

/-- 42_sqrt_mod.md R132, step FASTPATH, whose exponent is `(p + 1) / 4` when `p mod 4 = 3`. -/
def Obligations.FastpathDeliversThePower : Prop :=
  ∀ s : State, s.busy = true → s.ph = .fastpath → s.wP.toNat % 2 = 1 → 3 ≤ s.wP.toNat →
    engineStep s = .next { s with
      res := BitVec.ofNat 64 (s.wN.toNat ^ (s.wP.toNat / 4 + 1) % s.wP.toNat)
      code := .ok, busy := false, ph := .idle } ∧
    (s.wP.toNat % 4 = 3 → s.wP.toNat / 4 + 1 = (s.wP.toNat + 1) / 4)

/-- 42_sqrt_mod.md R133, step GS_ZSEARCH: one candidate; the increment does not overflow; and when the
phase is left with every smaller candidate tried, `w.z` is `LeastNonResidue(w.P)`. The invariant
supplies that premise, so in every state that meets it and lies after the search `w.z` is
`LeastNonResidue(w.P)`. -/
def Obligations.ZsearchTriesOneCandidate : Prop :=
  (∀ s : State, s.busy = true → s.ph = .gsZsearch → s.wP.toNat % 2 = 1 → 3 ≤ s.wP.toNat →
    s.wZ.toNat ≤ s.wP.toNat →
    (s.wZ.toNat ^ ((s.wP.toNat - 1) / 2) % s.wP.toNat = 1 →
      s.wZ.toNat + 1 ≤ s.wP.toNat ∧
      engineStep s = .next { s with wZ := BitVec.ofNat 64 (s.wZ.toNat + 1) }) ∧
    (s.wZ.toNat ^ ((s.wP.toNat - 1) / 2) % s.wP.toNat ≠ 1 →
      engineStep s = .next { s with ph := .gsFactor } ∧
      (2 ≤ s.wZ.toNat →
        (∀ y, 2 ≤ y → y < s.wZ.toNat → y ^ ((s.wP.toNat - 1) / 2) % s.wP.toNat = 1) →
        ∀ p : OddModulus, p.val = s.wP → s.wZ = leastNonResidue p))) ∧
  ∀ (s : State) (p : OddModulus), Inv s → s.ph.afterSearch = true → p.val = s.wP →
    s.wZ = leastNonResidue p

/-- 42_sqrt_mod.md R134, step GS_FACTOR. -/
def Obligations.FactorSplitsThePredecessor : Prop :=
  ∀ s : State, s.busy = true → s.ph = .gsFactor → s.wP.toNat % 2 = 1 → 3 ≤ s.wP.toNat →
    ∃ e q : Nat, s.wP.toNat - 1 = 2 ^ e * q ∧ q % 2 = 1 ∧ 1 ≤ e ∧ e ≤ 63 ∧
      engineStep s = .next { s with
        wS := BitVec.ofNat 64 e, wQ := BitVec.ofNat 64 q, ph := .gsInitvars }

/-- 42_sqrt_mod.md R135, step GS_INITVARS. -/
def Obligations.InitvarsSetsTheSearchState : Prop :=
  ∀ s : State, s.busy = true → s.ph = .gsInitvars → s.wP.toNat % 2 = 1 → 3 ≤ s.wP.toNat →
    engineStep s = .next { s with
      wC := BitVec.ofNat 64 (s.wZ.toNat ^ s.wQ.toNat % s.wP.toNat)
      wR := BitVec.ofNat 64 (s.wN.toNat ^ ((s.wQ.toNat + 1) / 2) % s.wP.toNat)
      wT := BitVec.ofNat 64 (s.wN.toNat ^ s.wQ.toNat % s.wP.toNat)
      wM := s.wS
      ph := .corrLoop }

/-- 42_sqrt_mod.md R136, step CORRLOOP: it completes when `t = 1`; else it corrects with the least
`i` in `[1, m)` with `t^(2^i) ≡ 1`, which makes `m` smaller, and faults if there is none. -/
def Obligations.CorrloopTestsAndCorrects : Prop :=
  ∀ s : State, s.busy = true → s.ph = .corrLoop → s.wP.toNat % 2 = 1 → 3 ≤ s.wP.toNat →
    s.wM.toNat ≤ 63 →
    (s.wT.toNat = 1 →
      engineStep s =
        .next { s with res := s.wR, code := .ok, busy := false, ph := .idle }) ∧
    (s.wT.toNat ≠ 1 →
      (∀ i, 1 ≤ i → i < s.wM.toNat → s.wT.toNat ^ 2 ^ i % s.wP.toNat ≠ 1) →
      engineStep s =
        .next { s with res := 0#64, code := .errInternal, busy := false, ph := .idle }) ∧
    (∀ i b : Nat, s.wT.toNat ≠ 1 → 1 ≤ i → i < s.wM.toNat →
      s.wT.toNat ^ 2 ^ i % s.wP.toNat = 1 →
      (∀ j, 1 ≤ j → j < i → s.wT.toNat ^ 2 ^ j % s.wP.toNat ≠ 1) →
      b = s.wC.toNat ^ 2 ^ (s.wM.toNat - i - 1) % s.wP.toNat →
      engineStep s = .next { s with
        wR := BitVec.ofNat 64 (s.wR.toNat * b % s.wP.toNat)
        wC := BitVec.ofNat 64 (b * b % s.wP.toNat)
        wT := BitVec.ofNat 64 (s.wT.toNat * (b * b) % s.wP.toNat)
        wM := BitVec.ofNat 64 i })

/-! ### SQRTMOD: the functions and the laws -/

/-- 42_sqrt_mod.md R121: `Factor2` gives the one decomposition `v = 2^s * q` with `q` odd, and
`s ≤ W - 1`. -/
def Obligations.Factor2GivesTheUniqueSplit : Prop :=
  ∀ (v : Word) (h : v.toNat ≠ 0),
    v.toNat = 2 ^ (factor2 v h).1.toNat * (factor2 v h).2.toNat ∧
    (factor2 v h).2.toNat % 2 = 1 ∧ (factor2 v h).1.toNat ≤ 63 ∧
    (v.toNat % 2 = 0 → 1 ≤ (factor2 v h).1.toNat) ∧
    ∀ e q : Nat, v.toNat = 2 ^ e * q → q % 2 = 1 →
      e = (factor2 v h).1.toNat ∧ q = (factor2 v h).2.toNat

/-- 42_sqrt_mod.md R122, R138: `LeastNonResidue(p)` is the smallest `z ≥ 2` with
`Legendre(z, p) ≠ 1`, and lies at or below `p` (where the Legendre value is 0), at or below the least
prime factor of `p`, and, for a prime `p` with `p mod 4 = 1`, below `p` with Legendre value `p - 1`.
The clause on the least prime factor is the spec's own inference, which R138 and
93_implementation_defined.md G1 mark as from general knowledge, not in the source. -/
def Obligations.NonResidueSearchIsBounded : Prop :=
  ∀ p : OddModulus,
    2 ≤ (leastNonResidue p).toNat ∧
    (leastNonResidue p).toNat ^ ((p.val.toNat - 1) / 2) % p.val.toNat ≠ 1 ∧
    (∀ y, 2 ≤ y → y < (leastNonResidue p).toNat →
      y ^ ((p.val.toNat - 1) / 2) % p.val.toNat = 1) ∧
    legendreValue p.val p = 0#64 ∧
    (leastNonResidue p).toNat ≤ p.val.toNat ∧
    (leastNonResidue p).toNat ≤ p.val.toNat.minFac ∧
    (p.val.toNat.Prime → p.val.toNat % 4 = 1 →
      (leastNonResidue p).toNat < p.val.toNat ∧
      (legendreValue (leastNonResidue p) p).toNat = p.val.toNat - 1)

/-- 42_sqrt_mod.md R123: `LeastI(t, m, p)` is the smallest `i` in `[1, m)` with
`t^(2^i) ≡ 1 (mod p)`, and none exactly when there is none. -/
def Obligations.LeastIFindsTheSmallest : Prop :=
  ∀ (t m : Word) (p : OddModulus),
    (∀ i, leastI t m p = some i ↔
      1 ≤ i ∧ i < m.toNat ∧ t.toNat ^ 2 ^ i % p.val.toNat = 1 ∧
        ∀ j, 1 ≤ j → j < i → t.toNat ^ 2 ^ j % p.val.toNat ≠ 1) ∧
    (leastI t m p = none ↔
      ∀ i, 1 ≤ i → i < m.toNat → t.toNat ^ 2 ^ i % p.val.toNat ≠ 1)

/-- 42_sqrt_mod.md R137: SQRTMOD on an idle engine with an odd modulus of at least 3 becomes busy in
INIT, stays busy for some number of engine steps and then completes with the outcome `SqrtMod` gives,
having changed no operand register, no latched register and nothing of the host's. -/
def Obligations.SqrtmodCompletesWithSqrtMod : Prop :=
  ∀ (s : State) (p : OddModulus), s.busy = false → p.val = s.opm →
    ∃ (t u : State) (k : Nat),
      exec .sqrtmod s = .next t ∧
      t = { s with
        wOp := 0x03#8, wA := s.opa, wB := s.opb, wP := s.opm, res := 0#64
        code := .none, busy := true, ph := .init } ∧
      engineRun k t = .next u ∧
      (∀ j, j < k → ∃ v, engineRun j t = .next v ∧ v.busy = true) ∧
      u.busy = false ∧ u.ph = .idle ∧
      u.code = (sqrtMod s.opa p).1 ∧ u.res = (sqrtMod s.opa p).2 ∧
      u.opa = s.opa ∧ u.opb = s.opb ∧ u.opm = s.opm ∧ u.inbox = s.inbox ∧
      u.replies = s.replies ∧ u.wOp = 0x03#8 ∧ u.wA = s.opa ∧ u.wB = s.opb ∧ u.wP = s.opm

/-- 42_sqrt_mod.md R140, 70_reset_and_hazards.md R206: every accepted SQRTMOD, prime modulus or not,
has completed within `p + s + 3` engine steps, `s` the number of factors 2 of `p - 1`. -/
def Obligations.SqrtmodCompletesWithinTheBound : Prop :=
  ∀ s : State, s.busy = false → s.opm.toNat % 2 = 1 → 3 ≤ s.opm.toNat →
    ∃ t u : State, exec .sqrtmod s = .next t ∧
      engineRun (s.opm.toNat + padicValNat 2 (s.opm.toNat - 1) + 3) t = .next u ∧
      u.busy = false

/-- 42_sqrt_mod.md R143: with `p mod 4 = 3` and a Legendre value of 1, FASTPATH delivers a root. -/
def Obligations.FastpathDeliversARoot : Prop :=
  ∀ s : State, s.busy = true → s.ph = .fastpath → 3 ≤ s.wP.toNat → s.wP.toNat % 4 = 3 →
    s.wN.toNat ^ ((s.wP.toNat - 1) / 2) % s.wP.toNat = 1 →
    ∃ t, engineStep s = .next t ∧ t.code = .ok ∧
      t.res.toNat = s.wN.toNat ^ ((s.wP.toNat + 1) / 4) % s.wP.toNat ∧
      t.res.toNat * t.res.toNat % s.wP.toNat = s.wN.toNat % s.wP.toNat

/-- 42_sqrt_mod.md R139: GS_INITVARS establishes `r^2 ≡ t·n (mod p)`, each CORRLOOP iteration keeps
it, and a CORRLOOP step that completes with OK delivers a root of `w.n`. -/
def Obligations.CorrectionLoopKeepsItsInvariant : Prop :=
  ∀ s t : State, s.busy = true → engineStep s = .next t →
    (s.ph = .gsInitvars → s.wQ.toNat % 2 = 1 →
      t.ph = .corrLoop ∧
      t.wR.toNat * t.wR.toNat % s.wP.toNat = t.wT.toNat * t.wN.toNat % s.wP.toNat) ∧
    (s.ph = .corrLoop →
      s.wR.toNat * s.wR.toNat % s.wP.toNat = s.wT.toNat * s.wN.toNat % s.wP.toNat →
      (t.busy = true →
        t.wR.toNat * t.wR.toNat % s.wP.toNat = t.wT.toNat * t.wN.toNat % s.wP.toNat) ∧
      (t.code = .ok → t.busy = false →
        t.res.toNat * t.res.toNat % s.wP.toNat = s.wN.toNat % s.wP.toNat))

/-- 42_sqrt_mod.md R141, for every accepted modulus, prime or not: a SQRTMOD that completes with OK
delivers a root in `[0, p)`. -/
def Obligations.SqrtmodRootSquaresBack : Prop :=
  ∀ (s t u : State) (k : Nat), s.busy = false → s.opm.toNat % 2 = 1 → 3 ≤ s.opm.toNat →
    exec .sqrtmod s = .next t → engineRun k t = .next u → u.busy = false → u.code = .ok →
    u.res.toNat < s.opm.toNat ∧
    u.res.toNat * u.res.toNat % s.opm.toNat = s.opa.toNat % s.opm.toNat

/-- 42_sqrt_mod.md R142, for an odd prime modulus: SQRTMOD completes with OK exactly for the quadratic
residues, 0 included, and with NOROOT exactly for the others; over `n = 0 .. p - 1` there are
`(p + 1) / 2` of the one and `(p - 1) / 2` of the other. -/
def Obligations.SqrtmodIsCompleteForPrimes : Prop :=
  (∀ s : State, s.busy = false → s.opm.toNat.Prime → s.opm.toNat ≠ 2 →
    ∃ (t u : State) (k : Nat), exec .sqrtmod s = .next t ∧ engineRun k t = .next u ∧
      u.busy = false ∧
      ((∃ x : Nat, x * x % s.opm.toNat = s.opa.toNat % s.opm.toNat) → u.code = .ok) ∧
      ((¬∃ x : Nat, x * x % s.opm.toNat = s.opa.toNat % s.opm.toNat) →
        u.code = .noroot ∧ u.res = 0#64)) ∧
  (∀ p : OddModulus, p.val.toNat.Prime →
    ((Finset.range p.val.toNat).filter
      (fun n => (sqrtMod (BitVec.ofNat 64 n) p).1 = .ok)).card = (p.val.toNat + 1) / 2 ∧
    ((Finset.range p.val.toNat).filter
      (fun n => (sqrtMod (BitVec.ofNat 64 n) p).1 = .noroot)).card = (p.val.toNat - 1) / 2)

/-- 42_sqrt_mod.md R145, for an odd prime modulus: GS_INITVARS establishes `t^(2^(m-1)) ≡ 1` and
`c^(2^(m-1)) ≡ -1`, and from such a state with `t ≠ 1` a CORRLOOP step always finds its `i`, keeps both
and makes `m` smaller: ERR_INTERNAL is not raised. The two order invariants and the argument from them
are the spec's own inference, which R145 and 93_implementation_defined.md G2 mark as from general
knowledge, not in the source; the source only asserts that the missing `i` should not occur. -/
def Obligations.PrimeCorrectionLoopAlwaysFindsI : Prop :=
  ∀ s : State, s.busy = true → s.wP.toNat.Prime → s.wP.toNat ≠ 2 →
    (s.ph = .gsInitvars → s.wP.toNat - 1 = 2 ^ s.wS.toNat * s.wQ.toNat → 1 ≤ s.wS.toNat →
      s.wN.toNat ^ ((s.wP.toNat - 1) / 2) % s.wP.toNat = 1 →
      s.wZ.toNat ^ ((s.wP.toNat - 1) / 2) % s.wP.toNat = s.wP.toNat - 1 →
      ∃ t, engineStep s = .next t ∧ t.ph = .corrLoop ∧ t.wT.toNat < t.wP.toNat ∧ OrderInv t) ∧
    (s.ph = .corrLoop → OrderInv s → s.wT.toNat < s.wP.toNat → s.wT.toNat ≠ 1 →
      1 ≤ s.wM.toNat → s.wM.toNat ≤ 63 →
      ∃ t, engineStep s = .next t ∧ t.busy = true ∧ t.ph = .corrLoop ∧
        t.wT.toNat < t.wP.toNat ∧ OrderInv t ∧ 1 ≤ t.wM.toNat ∧ t.wM.toNat < s.wM.toNat)

/-- 42_sqrt_mod.md R128, for an odd prime modulus: when the root delivered is `r ≠ 0`, `p - r` is a
second root in `[0, p)`, and there is no third; when it is 0 there is no other root. -/
def Obligations.ComplementIsTheOnlyOtherRoot : Prop :=
  ∀ (n r : Word) (p : OddModulus), p.val.toNat.Prime → sqrtMod n p = (.ok, r) →
    (r.toNat ≠ 0 →
      p.val.toNat - r.toNat < p.val.toNat ∧ p.val.toNat - r.toNat ≠ r.toNat ∧
      (p.val.toNat - r.toNat) * (p.val.toNat - r.toNat) % p.val.toNat =
        n.toNat % p.val.toNat) ∧
    (∀ x, x < p.val.toNat → x * x % p.val.toNat = n.toNat % p.val.toNat →
      x = r.toNat ∨ (r.toNat ≠ 0 ∧ x = p.val.toNat - r.toNat))

/-- 42_sqrt_mod.md R147, rows on `n`: `n ≡ 0` gives (OK, 0), `n ≡ 1` gives (OK, 1) on both paths, and
`n` counts only modulo `p`. -/
def Obligations.SqrtModCornerCasesHold : Prop :=
  ∀ (n : Word) (p : OddModulus),
    (n.toNat % p.val.toNat = 0 → sqrtMod n p = (.ok, 0#64)) ∧
    (n.toNat % p.val.toNat = 1 → sqrtMod n p = (.ok, 1#64)) ∧
    sqrtMod n p = sqrtMod (BitVec.ofNat 64 (n.toNat % p.val.toNat)) p

/-! ### Host scripts -/

/-- 30_encoding.md R79: the pseudo-line `powmod a, b, m -> d`, run by a host against an idle engine
that takes its one step after any number `k` of busy polls, binds `d` to `a^b mod m`, and its `wait`
leaves `_st` bound to the last STATUS value read, `0x12`. -/
def Obligations.PowmodLineBindsThePower : Prop :=
  ∀ (x : Session) (a b m : Word) (d : Name) (rest : List Line) (k : Nat),
    x.machine.busy = false → m.toNat ≠ 0 →
    x.script =
      expandLine (.powmod (.lit a.toNat) (.lit b.toNat) (.lit m.toNat) (some d)) ++ rest →
    ∃ (y : Session) (v : Word),
      runSession (List.replicate 4 .host ++ List.replicate k .host ++
        [.engine, .host, .host]) x = .ok y ∧
      y.script = rest ∧ lookupName d y.names = some v ∧
      v.toNat = a.toNat ^ b.toNat % m.toNat ∧
      (d ≠ stName → lookupName stName y.names = some 0x12#64) ∧ y.machine.busy = false ∧ y.machine.code = .ok
end

