-- ==== Sys2Proof/Laws/Arith.lean ====
section
/-! SUPPORT. What the integer functions give as natural numbers, one lemma per function, and the
ranges that show no narrowing loses a bit (40_pow_mod.md R102). -/

namespace Sys2Proof.Machine

theorem narrow_toNat {n : Nat} (h : n < 2 ^ 64) : (narrow n).toNat = n := by
  simp only [narrow, BitVec.toNat_ofNat]
  exact Nat.mod_eq_of_lt h

theorem narrow_mod_toNat (n : Nat) (m : Modulus) :
    (narrow (n % m.val.toNat)).toNat = n % m.val.toNat :=
  narrow_toNat (Nat.lt_trans (Nat.mod_lt n m.pos) m.val.isLt)

@[simp] theorem OddModulus.toModulus_val (p : OddModulus) : p.toModulus.val = p.val := rfl

theorem OddModulus.pos (p : OddModulus) : 0 < p.val.toNat := p.toModulus.pos

@[simp] theorem reduce_toNat (a : Word) (m : Modulus) :
    (reduce a m).toNat = a.toNat % m.val.toNat :=
  narrow_mod_toNat _ m

@[simp] theorem mulMod_toNat (a b : Word) (m : Modulus) :
    (mulMod a b m).toNat = a.toNat * b.toNat % m.val.toNat :=
  narrow_mod_toNat _ m

theorem reduce_lt (a : Word) (m : Modulus) : (reduce a m).toNat < m.val.toNat := by
  rw [reduce_toNat]
  exact Nat.mod_lt _ m.pos

theorem mulMod_lt (a b : Word) (m : Modulus) : (mulMod a b m).toNat < m.val.toNat := by
  rw [mulMod_toNat]
  exact Nat.mod_lt _ m.pos

theorem powRound_e_toNat (m : Modulus) (x : PowVars) : (powRound m x).e.toNat = x.e.toNat / 2 :=
  narrow_toNat (Nat.lt_of_le_of_lt (Nat.div_le_self _ _) x.e.isLt)

theorem halfPred_toNat (p : Word) : (halfPred p).toNat = (p.toNat - 1) / 2 :=
  narrow_toNat (by have := p.isLt; omega)

theorem quarterUp_toNat (p : Word) : (quarterUp p).toNat = p.toNat / 4 + 1 :=
  narrow_toNat (by have := p.isLt; omega)

theorem halfUp_toNat (q : Word) : (halfUp q).toNat = (q.toNat + 1) / 2 :=
  narrow_toNat (by have := q.isLt; omega)

theorem corrExponent_toNat (m : Word) (i : Nat) (h : m.toNat - i - 1 < 64) :
    (corrExponent m i).toNat = 2 ^ (m.toNat - i - 1) :=
  narrow_toNat (Nat.pow_lt_pow_right (by decide) h)

theorem word_eq_iff_toNat (a b : Word) : a = b ↔ a.toNat = b.toNat :=
  ⟨fun h => h ▸ rfl, BitVec.eq_of_toNat_eq⟩

/-- `LeastI` answers within its range. -/
theorem leastILoop_range (p : OddModulus) {k i : Nat} {t : Word} {j : Nat}
    (h : leastILoop p k i t = some j) : i ≤ j ∧ j < i + k := by
  induction k generalizing i t with
  | zero => simp [leastILoop] at h
  | succ k ih =>
    simp only [leastILoop] at h
    split at h
    · simp only [Option.some.injEq] at h
      omega
    · have := ih h
      omega

theorem leastI_range {t m : Word} {p : OddModulus} {i : Nat} (h : leastI t m p = some i) :
    1 ≤ i ∧ i + 1 ≤ m.toNat := by
  have := leastILoop_range p h
  omega

/-- The narrowed `i` of one iteration is the new order bound exactly. -/
theorem corrUpdate_m_toNat {t : Word} {p : OddModulus} {i : Nat} (x : Search)
    (h : leastI t x.m p = some i) : (corrUpdate p i x).m.toNat = i :=
  narrow_toNat (by have := leastI_range h; have := x.m.isLt; omega)

end Sys2Proof.Machine
end

