-- ==== Sys2Proof/Laws/Decode.lean ====
section
/-! SUPPORT. What the decoder answers, by the two fields of a command word. -/

namespace Sys2Proof

theorem rsvField_toNat (v : Word) : (rsvField v).toNat = v.toNat / 256 := by
  have := v.isLt
  simp only [rsvField, BitVec.extractLsb'_toNat, Nat.shiftRight_eq_div_pow]
  omega

theorem opcField_toNat (v : Word) : (opcField v).toNat = v.toNat % 256 := by
  simp [opcField, BitVec.extractLsb'_toNat]

theorem decode_reserved {v : Word} (h : rsvField v ≠ 0#56) : decode v = .error .reservedBits :=
  if_pos h

theorem decode_of_rsvZero {v : Word} (h : rsvField v = 0#56) :
    decode v = match instrOfOpcode (opcField v) with
      | some i => .ok i
      | none => .error .opcode :=
  if_neg (by simp [h])

theorem instrOfOpcode_opcode (i : Instr) : instrOfOpcode (opcode i) = some i := by
  cases i <;> rfl

theorem opcode_of_instrOfOpcode {c : BitVec 8} {i : Instr} (h : instrOfOpcode c = some i) :
    c = opcode i := by
  unfold instrOfOpcode at h
  split at h
  · cases h; assumption
  · split at h
    · cases h; assumption
    · split at h
      · cases h; assumption
      · cases h

end Sys2Proof
end

