-- ==== Sys2Proof/Laws/State.lean ====
section
/-! SUPPORT. One lemma per field per named update of State. -/

namespace Sys2Proof.Machine

variable (s : State)

@[simp] theorem complete_opa (c : Code) (v : Word) : (complete c v s).opa = s.opa := rfl
@[simp] theorem complete_opb (c : Code) (v : Word) : (complete c v s).opb = s.opb := rfl
@[simp] theorem complete_opm (c : Code) (v : Word) : (complete c v s).opm = s.opm := rfl
@[simp] theorem complete_res (c : Code) (v : Word) : (complete c v s).res = v := rfl
@[simp] theorem complete_busy (c : Code) (v : Word) : (complete c v s).busy = false := rfl
@[simp] theorem complete_code (c : Code) (v : Word) : (complete c v s).code = c := rfl
@[simp] theorem complete_ph (c : Code) (v : Word) : (complete c v s).ph = .idle := rfl
@[simp] theorem complete_wOp (c : Code) (v : Word) : (complete c v s).wOp = s.wOp := rfl
@[simp] theorem complete_wA (c : Code) (v : Word) : (complete c v s).wA = s.wA := rfl
@[simp] theorem complete_wB (c : Code) (v : Word) : (complete c v s).wB = s.wB := rfl
@[simp] theorem complete_wP (c : Code) (v : Word) : (complete c v s).wP = s.wP := rfl
@[simp] theorem complete_wN (c : Code) (v : Word) : (complete c v s).wN = s.wN := rfl
@[simp] theorem complete_wZ (c : Code) (v : Word) : (complete c v s).wZ = s.wZ := rfl
@[simp] theorem complete_wS (c : Code) (v : Word) : (complete c v s).wS = s.wS := rfl
@[simp] theorem complete_wQ (c : Code) (v : Word) : (complete c v s).wQ = s.wQ := rfl
@[simp] theorem complete_wC (c : Code) (v : Word) : (complete c v s).wC = s.wC := rfl
@[simp] theorem complete_wR (c : Code) (v : Word) : (complete c v s).wR = s.wR := rfl
@[simp] theorem complete_wT (c : Code) (v : Word) : (complete c v s).wT = s.wT := rfl
@[simp] theorem complete_wM (c : Code) (v : Word) : (complete c v s).wM = s.wM := rfl
@[simp] theorem complete_inbox (c : Code) (v : Word) : (complete c v s).inbox = s.inbox := rfl
@[simp] theorem complete_replies (c : Code) (v : Word) : (complete c v s).replies = s.replies := rfl

@[simp] theorem raiseFault_opa (c : Code) : (raiseFault c s).opa = s.opa := rfl
@[simp] theorem raiseFault_opb (c : Code) : (raiseFault c s).opb = s.opb := rfl
@[simp] theorem raiseFault_opm (c : Code) : (raiseFault c s).opm = s.opm := rfl
@[simp] theorem raiseFault_res (c : Code) : (raiseFault c s).res = 0#64 := rfl
@[simp] theorem raiseFault_busy (c : Code) : (raiseFault c s).busy = false := rfl
@[simp] theorem raiseFault_code (c : Code) : (raiseFault c s).code = c := rfl
@[simp] theorem raiseFault_ph (c : Code) : (raiseFault c s).ph = .idle := rfl
@[simp] theorem raiseFault_wOp (c : Code) : (raiseFault c s).wOp = s.wOp := rfl
@[simp] theorem raiseFault_wA (c : Code) : (raiseFault c s).wA = s.wA := rfl
@[simp] theorem raiseFault_wB (c : Code) : (raiseFault c s).wB = s.wB := rfl
@[simp] theorem raiseFault_wP (c : Code) : (raiseFault c s).wP = s.wP := rfl
@[simp] theorem raiseFault_wN (c : Code) : (raiseFault c s).wN = s.wN := rfl
@[simp] theorem raiseFault_wZ (c : Code) : (raiseFault c s).wZ = s.wZ := rfl
@[simp] theorem raiseFault_wS (c : Code) : (raiseFault c s).wS = s.wS := rfl
@[simp] theorem raiseFault_wQ (c : Code) : (raiseFault c s).wQ = s.wQ := rfl
@[simp] theorem raiseFault_wC (c : Code) : (raiseFault c s).wC = s.wC := rfl
@[simp] theorem raiseFault_wR (c : Code) : (raiseFault c s).wR = s.wR := rfl
@[simp] theorem raiseFault_wT (c : Code) : (raiseFault c s).wT = s.wT := rfl
@[simp] theorem raiseFault_wM (c : Code) : (raiseFault c s).wM = s.wM := rfl
@[simp] theorem raiseFault_inbox (c : Code) : (raiseFault c s).inbox = s.inbox := rfl
@[simp] theorem raiseFault_replies (c : Code) : (raiseFault c s).replies = s.replies := rfl

@[simp] theorem startPhase_opa (p : Phase) : (startPhase p s).opa = s.opa := rfl
@[simp] theorem startPhase_opb (p : Phase) : (startPhase p s).opb = s.opb := rfl
@[simp] theorem startPhase_opm (p : Phase) : (startPhase p s).opm = s.opm := rfl
@[simp] theorem startPhase_res (p : Phase) : (startPhase p s).res = s.res := rfl
@[simp] theorem startPhase_busy (p : Phase) : (startPhase p s).busy = true := rfl
@[simp] theorem startPhase_code (p : Phase) : (startPhase p s).code = s.code := rfl
@[simp] theorem startPhase_ph (p : Phase) : (startPhase p s).ph = p := rfl
@[simp] theorem startPhase_wOp (p : Phase) : (startPhase p s).wOp = s.wOp := rfl
@[simp] theorem startPhase_wA (p : Phase) : (startPhase p s).wA = s.wA := rfl
@[simp] theorem startPhase_wB (p : Phase) : (startPhase p s).wB = s.wB := rfl
@[simp] theorem startPhase_wP (p : Phase) : (startPhase p s).wP = s.wP := rfl
@[simp] theorem startPhase_wN (p : Phase) : (startPhase p s).wN = s.wN := rfl
@[simp] theorem startPhase_wZ (p : Phase) : (startPhase p s).wZ = s.wZ := rfl
@[simp] theorem startPhase_wS (p : Phase) : (startPhase p s).wS = s.wS := rfl
@[simp] theorem startPhase_wQ (p : Phase) : (startPhase p s).wQ = s.wQ := rfl
@[simp] theorem startPhase_wC (p : Phase) : (startPhase p s).wC = s.wC := rfl
@[simp] theorem startPhase_wR (p : Phase) : (startPhase p s).wR = s.wR := rfl
@[simp] theorem startPhase_wT (p : Phase) : (startPhase p s).wT = s.wT := rfl
@[simp] theorem startPhase_wM (p : Phase) : (startPhase p s).wM = s.wM := rfl
@[simp] theorem startPhase_inbox (p : Phase) : (startPhase p s).inbox = s.inbox := rfl
@[simp] theorem startPhase_replies (p : Phase) : (startPhase p s).replies = s.replies := rfl

@[simp] theorem latch_opa (i : Instr) : (latch i s).opa = s.opa := rfl
@[simp] theorem latch_opb (i : Instr) : (latch i s).opb = s.opb := rfl
@[simp] theorem latch_opm (i : Instr) : (latch i s).opm = s.opm := rfl
@[simp] theorem latch_res (i : Instr) : (latch i s).res = 0#64 := rfl
@[simp] theorem latch_busy (i : Instr) : (latch i s).busy = s.busy := rfl
@[simp] theorem latch_code (i : Instr) : (latch i s).code = .none := rfl
@[simp] theorem latch_ph (i : Instr) : (latch i s).ph = s.ph := rfl
@[simp] theorem latch_wOp (i : Instr) : (latch i s).wOp = opcode i := rfl
@[simp] theorem latch_wA (i : Instr) : (latch i s).wA = s.opa := rfl
@[simp] theorem latch_wB (i : Instr) : (latch i s).wB = s.opb := rfl
@[simp] theorem latch_wP (i : Instr) : (latch i s).wP = s.opm := rfl
@[simp] theorem latch_wN (i : Instr) : (latch i s).wN = s.wN := rfl
@[simp] theorem latch_wZ (i : Instr) : (latch i s).wZ = s.wZ := rfl
@[simp] theorem latch_wS (i : Instr) : (latch i s).wS = s.wS := rfl
@[simp] theorem latch_wQ (i : Instr) : (latch i s).wQ = s.wQ := rfl
@[simp] theorem latch_wC (i : Instr) : (latch i s).wC = s.wC := rfl
@[simp] theorem latch_wR (i : Instr) : (latch i s).wR = s.wR := rfl
@[simp] theorem latch_wT (i : Instr) : (latch i s).wT = s.wT := rfl
@[simp] theorem latch_wM (i : Instr) : (latch i s).wM = s.wM := rfl
@[simp] theorem latch_inbox (i : Instr) : (latch i s).inbox = s.inbox := rfl
@[simp] theorem latch_replies (i : Instr) : (latch i s).replies = s.replies := rfl

@[simp] theorem reply_opa (v : Word) : (reply v s).opa = s.opa := rfl
@[simp] theorem reply_opb (v : Word) : (reply v s).opb = s.opb := rfl
@[simp] theorem reply_opm (v : Word) : (reply v s).opm = s.opm := rfl
@[simp] theorem reply_res (v : Word) : (reply v s).res = s.res := rfl
@[simp] theorem reply_busy (v : Word) : (reply v s).busy = s.busy := rfl
@[simp] theorem reply_code (v : Word) : (reply v s).code = s.code := rfl
@[simp] theorem reply_ph (v : Word) : (reply v s).ph = s.ph := rfl
@[simp] theorem reply_wOp (v : Word) : (reply v s).wOp = s.wOp := rfl
@[simp] theorem reply_wA (v : Word) : (reply v s).wA = s.wA := rfl
@[simp] theorem reply_wB (v : Word) : (reply v s).wB = s.wB := rfl
@[simp] theorem reply_wP (v : Word) : (reply v s).wP = s.wP := rfl
@[simp] theorem reply_wN (v : Word) : (reply v s).wN = s.wN := rfl
@[simp] theorem reply_wZ (v : Word) : (reply v s).wZ = s.wZ := rfl
@[simp] theorem reply_wS (v : Word) : (reply v s).wS = s.wS := rfl
@[simp] theorem reply_wQ (v : Word) : (reply v s).wQ = s.wQ := rfl
@[simp] theorem reply_wC (v : Word) : (reply v s).wC = s.wC := rfl
@[simp] theorem reply_wR (v : Word) : (reply v s).wR = s.wR := rfl
@[simp] theorem reply_wT (v : Word) : (reply v s).wT = s.wT := rfl
@[simp] theorem reply_wM (v : Word) : (reply v s).wM = s.wM := rfl
@[simp] theorem reply_inbox (v : Word) : (reply v s).inbox = s.inbox := rfl
@[simp] theorem reply_replies (v : Word) : (reply v s).replies = v :: s.replies := rfl

@[simp] theorem setSearch_opa (x : Search) : (setSearch x s).opa = s.opa := rfl
@[simp] theorem setSearch_opb (x : Search) : (setSearch x s).opb = s.opb := rfl
@[simp] theorem setSearch_opm (x : Search) : (setSearch x s).opm = s.opm := rfl
@[simp] theorem setSearch_res (x : Search) : (setSearch x s).res = s.res := rfl
@[simp] theorem setSearch_busy (x : Search) : (setSearch x s).busy = s.busy := rfl
@[simp] theorem setSearch_code (x : Search) : (setSearch x s).code = s.code := rfl
@[simp] theorem setSearch_ph (x : Search) : (setSearch x s).ph = s.ph := rfl
@[simp] theorem setSearch_wOp (x : Search) : (setSearch x s).wOp = s.wOp := rfl
@[simp] theorem setSearch_wA (x : Search) : (setSearch x s).wA = s.wA := rfl
@[simp] theorem setSearch_wB (x : Search) : (setSearch x s).wB = s.wB := rfl
@[simp] theorem setSearch_wP (x : Search) : (setSearch x s).wP = s.wP := rfl
@[simp] theorem setSearch_wN (x : Search) : (setSearch x s).wN = s.wN := rfl
@[simp] theorem setSearch_wZ (x : Search) : (setSearch x s).wZ = s.wZ := rfl
@[simp] theorem setSearch_wS (x : Search) : (setSearch x s).wS = s.wS := rfl
@[simp] theorem setSearch_wQ (x : Search) : (setSearch x s).wQ = s.wQ := rfl
@[simp] theorem setSearch_wC (x : Search) : (setSearch x s).wC = x.c := rfl
@[simp] theorem setSearch_wR (x : Search) : (setSearch x s).wR = x.r := rfl
@[simp] theorem setSearch_wT (x : Search) : (setSearch x s).wT = x.t := rfl
@[simp] theorem setSearch_wM (x : Search) : (setSearch x s).wM = x.m := rfl
@[simp] theorem setSearch_inbox (x : Search) : (setSearch x s).inbox = s.inbox := rfl
@[simp] theorem setSearch_replies (x : Search) : (setSearch x s).replies = s.replies := rfl

@[simp] theorem resetEngine_opa : (resetEngine s).opa = 0#64 := rfl
@[simp] theorem resetEngine_opb : (resetEngine s).opb = 0#64 := rfl
@[simp] theorem resetEngine_opm : (resetEngine s).opm = 0#64 := rfl
@[simp] theorem resetEngine_res : (resetEngine s).res = 0#64 := rfl
@[simp] theorem resetEngine_busy : (resetEngine s).busy = false := rfl
@[simp] theorem resetEngine_code : (resetEngine s).code = .none := rfl
@[simp] theorem resetEngine_ph : (resetEngine s).ph = .idle := rfl
@[simp] theorem resetEngine_wOp : (resetEngine s).wOp = 0#8 := rfl
@[simp] theorem resetEngine_wA : (resetEngine s).wA = 0#64 := rfl
@[simp] theorem resetEngine_wB : (resetEngine s).wB = 0#64 := rfl
@[simp] theorem resetEngine_wP : (resetEngine s).wP = 0#64 := rfl
@[simp] theorem resetEngine_wN : (resetEngine s).wN = 0#64 := rfl
@[simp] theorem resetEngine_wZ : (resetEngine s).wZ = 0#64 := rfl
@[simp] theorem resetEngine_wS : (resetEngine s).wS = 0#64 := rfl
@[simp] theorem resetEngine_wQ : (resetEngine s).wQ = 0#64 := rfl
@[simp] theorem resetEngine_wC : (resetEngine s).wC = 0#64 := rfl
@[simp] theorem resetEngine_wR : (resetEngine s).wR = 0#64 := rfl
@[simp] theorem resetEngine_wT : (resetEngine s).wT = 0#64 := rfl
@[simp] theorem resetEngine_wM : (resetEngine s).wM = 0#64 := rfl
@[simp] theorem resetEngine_inbox : (resetEngine s).inbox = s.inbox := rfl
@[simp] theorem resetEngine_replies : (resetEngine s).replies = s.replies := rfl

@[simp] theorem searchOf_m : (searchOf s).m = s.wM := rfl
@[simp] theorem searchOf_c : (searchOf s).c = s.wC := rfl
@[simp] theorem searchOf_t : (searchOf s).t = s.wT := rfl
@[simp] theorem searchOf_r : (searchOf s).r = s.wR := rfl

end Sys2Proof.Machine
end

