-- ==== Sys2Proof/Laws/Ops.lean ====
section
/-! SUPPORT. What each shared operation can answer, said once. -/

namespace Sys2Proof.Machine

variable {w : Word} {n : Nat} {t : State}

/-- With a modulus in the domain the phase gives its own outcome. -/
theorem withModulus_of_pos (h : 0 < w.toNat) (k : Modulus → Host.Outcome State Fault Refusal) :
    withModulus w k = k ⟨w, h⟩ :=
  dif_pos h

theorem withModulus_of_zero (h : w.toNat = 0) (k : Modulus → Host.Outcome State Fault Refusal) :
    withModulus w k = .fault .modulusUndefined :=
  dif_neg (by omega)

/-- A next state comes from a modulus in the domain. -/
theorem withModulus_cases {k : Modulus → Host.Outcome State Fault Refusal}
    (h : withModulus w k = .next t) : ∃ m : Modulus, m.val = w ∧ k m = .next t := by
  unfold withModulus at h
  split at h
  · exact ⟨_, rfl, h⟩
  · cases h

/-- With an odd modulus of at least 3 the phase gives its own outcome. -/
theorem withOddModulus_of_odd (ho : w.toNat % 2 = 1) (h3 : 3 ≤ w.toNat)
    (k : OddModulus → Host.Outcome State Fault Refusal) :
    withOddModulus w k = k ⟨w, (badModulus_eq_false_iff w).2 ⟨ho, h3⟩⟩ :=
  dif_pos _

theorem withOddModulus_of_bad (h : badModulus w = true)
    (k : OddModulus → Host.Outcome State Fault Refusal) :
    withOddModulus w k = .fault .modulusUndefined :=
  dif_neg (by simp [h])

theorem withOddModulus_cases {k : OddModulus → Host.Outcome State Fault Refusal}
    (h : withOddModulus w k = .next t) : ∃ p : OddModulus, p.val = w ∧ k p = .next t := by
  unfold withOddModulus at h
  split at h
  · exact ⟨_, rfl, h⟩
  · cases h

theorem withinWidth_of_lt (h : n < 2 ^ 64) (k : Word → Host.Outcome State Fault Refusal) :
    withinWidth n k = k (narrow n) :=
  if_pos h

theorem withinWidth_cases {k : Word → Host.Outcome State Fault Refusal}
    (h : withinWidth n k = .next t) : n < 2 ^ 64 ∧ k (narrow n) = .next t := by
  unfold withinWidth at h
  split at h
  · exact ⟨‹_›, h⟩
  · cases h

end Sys2Proof.Machine
end

