-- ==== Sys2Proof/Laws/Engine.lean ====
section
/-! SUPPORT. What an engine step can do, phase by phase: if a phase answers a next state, then one of
the listed cases holds. -/

namespace Sys2Proof.Machine

variable {s t : State}

theorem engineStep_idle (h : s.busy = false) : engineStep s = .next s := by
  simp [engineStep, h]

theorem engineStep_busy (h : s.busy = true) : engineStep s = phaseStep s := by
  simp [engineStep, h]

theorem stepPmExec_cases (h : stepPmExec s = .next t) :
    ∃ m : Modulus, m.val = s.wP ∧ t = complete .ok (powMod s.wA s.wB m) s := by
  obtain ⟨m, hm, h⟩ := withModulus_cases h
  cases h
  exact ⟨m, hm, rfl⟩

theorem stepLgExec_cases (h : stepLgExec s = .next t) :
    ∃ p : OddModulus, p.val = s.wP ∧ t = complete .ok (legendreValue s.wA p) s := by
  obtain ⟨p, hp, h⟩ := withOddModulus_cases h
  cases h
  exact ⟨p, hp, rfl⟩

theorem stepInit_cases (h : stepInit s = .next t) :
    ∃ p : OddModulus, p.val = s.wP ∧
      ((reduce s.wA p.toModulus = 0#64 ∧
          t = complete .ok 0#64 { s with wN := reduce s.wA p.toModulus }) ∨
        (reduce s.wA p.toModulus ≠ 0#64 ∧
          t = { s with wN := reduce s.wA p.toModulus, ph := .dispatch })) := by
  obtain ⟨p, hp, h⟩ := withOddModulus_cases h
  refine ⟨p, hp, ?_⟩
  simp only at h
  split at h
  · cases h; exact .inl ⟨‹_›, rfl⟩
  · cases h; exact .inr ⟨‹_›, rfl⟩

theorem stepDispatch_cases (h : stepDispatch s = .next t) :
    ∃ p : OddModulus, p.val = s.wP ∧
      ((legendreValue s.wN p ≠ 1#64 ∧ t = complete .noroot 0#64 s) ∨
        (legendreValue s.wN p = 1#64 ∧ s.wP.toNat % 4 = 3 ∧ t = { s with ph := .fastpath }) ∨
        (legendreValue s.wN p = 1#64 ∧ s.wP.toNat % 4 ≠ 3 ∧
          t = { s with wZ := 2#64, ph := .gsZsearch })) := by
  obtain ⟨p, hp, h⟩ := withOddModulus_cases h
  refine ⟨p, hp, ?_⟩
  split at h
  · cases h; exact .inl ⟨‹_›, rfl⟩
  · rename_i hl
    simp only [ne_eq, not_not] at hl
    split at h
    · cases h; exact .inr (.inl ⟨hl, ‹_›, rfl⟩)
    · cases h; exact .inr (.inr ⟨hl, ‹_›, rfl⟩)

theorem stepFastpath_cases (h : stepFastpath s = .next t) :
    ∃ p : OddModulus, p.val = s.wP ∧
      t = complete .ok (powMod s.wN (quarterUp s.wP) p.toModulus) s := by
  obtain ⟨p, hp, h⟩ := withOddModulus_cases h
  cases h
  exact ⟨p, hp, rfl⟩

theorem stepGsZsearch_cases (h : stepGsZsearch s = .next t) :
    ∃ p : OddModulus, p.val = s.wP ∧
      ((legendreValue s.wZ p = 1#64 ∧ s.wZ.toNat + 1 < 2 ^ 64 ∧
          t = { s with wZ := narrow (s.wZ.toNat + 1) }) ∨
        (legendreValue s.wZ p ≠ 1#64 ∧ t = { s with ph := .gsFactor })) := by
  obtain ⟨p, hp, h⟩ := withOddModulus_cases h
  refine ⟨p, hp, ?_⟩
  split at h
  · obtain ⟨hlt, h⟩ := withinWidth_cases h
    cases h; exact .inl ⟨‹_›, hlt, rfl⟩
  · cases h; exact .inr ⟨‹_›, rfl⟩

theorem stepGsFactor_cases (h : stepGsFactor s = .next t) :
    ∃ p : OddModulus, p.val = s.wP ∧
      t = { s with
        wS := (factor2 p.pred p.pred_ne_zero).1
        wQ := (factor2 p.pred p.pred_ne_zero).2
        ph := .gsInitvars } := by
  obtain ⟨p, hp, h⟩ := withOddModulus_cases h
  cases h
  exact ⟨p, hp, rfl⟩

theorem stepGsInitvars_cases (h : stepGsInitvars s = .next t) :
    ∃ p : OddModulus, p.val = s.wP ∧
      t = { setSearch (searchStart s.wN s.wZ s.wS s.wQ p) s with ph := .corrLoop } := by
  obtain ⟨p, hp, h⟩ := withOddModulus_cases h
  cases h
  exact ⟨p, hp, rfl⟩

theorem stepCorrLoop_cases (h : stepCorrLoop s = .next t) :
    ∃ p : OddModulus, p.val = s.wP ∧
      ((s.wT = 1#64 ∧ t = complete .ok s.wR s) ∨
        (s.wT ≠ 1#64 ∧ leastI s.wT s.wM p = none ∧ t = raiseFault .errInternal s) ∨
        (s.wT ≠ 1#64 ∧ ∃ i, leastI s.wT s.wM p = some i ∧ s.wM.toNat - i - 1 < 64 ∧
          t = setSearch (corrUpdate p i (searchOf s)) s)) := by
  obtain ⟨p, hp, h⟩ := withOddModulus_cases h
  refine ⟨p, hp, ?_⟩
  split at h
  · cases h; exact .inl ⟨‹_›, rfl⟩
  · split at h
    · cases h; exact .inr (.inl ⟨‹_›, ‹_›, rfl⟩)
    · split at h
      · cases h; exact .inr (.inr ⟨‹_›, _, ‹_›, ‹_›, rfl⟩)
      · cases h

/-- A turn of the engine that answers a next state is an idle turn or one of the nine phases'. -/
theorem engineStep_cases (h : engineStep s = .next t) :
    (s.busy = false ∧ t = s) ∨
    (s.busy = true ∧
      ((s.ph = .idle ∧ t = s) ∨
        (s.ph = .pmExec ∧ stepPmExec s = .next t) ∨
        (s.ph = .lgExec ∧ stepLgExec s = .next t) ∨
        (s.ph = .init ∧ stepInit s = .next t) ∨
        (s.ph = .dispatch ∧ stepDispatch s = .next t) ∨
        (s.ph = .fastpath ∧ stepFastpath s = .next t) ∨
        (s.ph = .gsZsearch ∧ stepGsZsearch s = .next t) ∨
        (s.ph = .gsFactor ∧ stepGsFactor s = .next t) ∨
        (s.ph = .gsInitvars ∧ stepGsInitvars s = .next t) ∨
        (s.ph = .corrLoop ∧ stepCorrLoop s = .next t))) := by
  cases hb : s.busy with
  | false =>
    rw [engineStep_idle hb] at h
    cases h
    exact .inl ⟨rfl, rfl⟩
  | true =>
    rw [engineStep_busy hb] at h
    refine .inr ⟨rfl, ?_⟩
    cases hp : s.ph <;> simp only [phaseStep, hp] at h <;> simp_all

end Sys2Proof.Machine
end

