-- ==== Sys2Proof/Laws/PerInstr.lean ====
section
/-! SUPPORT. Families of laws made per instruction. -/

namespace Sys2Proof.Laws

/-- The fields of a command's word (30_encoding.md R70, R72): RSV is 0, OPC is the command's opcode,
and the word is legal. -/
def WordFields.Statement (i : Instr) : Prop :=
  i.wf = true ∧ rsvField (encode i) = 0#56 ∧ opcField (encode i) = opcode i ∧
    commandWordWf (encode i) = true

theorem WordFields.powmod : WordFields.Statement .powmod := by
  unfold WordFields.Statement
  decide

theorem WordFields.legendre : WordFields.Statement .legendre := by
  unfold WordFields.Statement
  decide

theorem WordFields.sqrtmod : WordFields.Statement .sqrtmod := by
  unfold WordFields.Statement
  decide

end Sys2Proof.Laws
end

