-- ==== Sys2Proof/Laws/Step.lean ====
section
/-! SUPPORT. What issuing a command, a host transaction, an event and a step of the machine can do,
and runs of them. -/

namespace Sys2Proof.Machine

variable {s t : State}

/-- Issuing a command always answers a next state: the write dropped, the boundary check failed, or
the command busy in its first phase. -/
theorem execPowmod_cases (s : State) :
    (s.busy = true ∧ execPowmod s = .next s) ∨
    (s.busy = false ∧ s.opm = 0#64 ∧
      execPowmod s = .next (raiseFault .errModzero (latch .powmod s))) ∨
    (s.busy = false ∧ s.opm ≠ 0#64 ∧
      execPowmod s = .next (startPhase .pmExec (latch .powmod s))) := by
  cases hb : s.busy with
  | true => exact .inl ⟨rfl, by simp [execPowmod, hb]⟩
  | false =>
    by_cases hm : s.opm = 0#64
    · exact .inr (.inl ⟨rfl, hm, by simp [execPowmod, hb, hm]⟩)
    · exact .inr (.inr ⟨rfl, hm, by simp [execPowmod, hb, hm]⟩)

theorem execLegendre_cases (s : State) :
    (s.busy = true ∧ execLegendre s = .next s) ∨
    (s.busy = false ∧ badModulus s.opm = true ∧
      execLegendre s = .next (raiseFault .errBadp (latch .legendre s))) ∨
    (s.busy = false ∧ badModulus s.opm = false ∧
      execLegendre s = .next (startPhase .lgExec (latch .legendre s))) := by
  cases hb : s.busy with
  | true => exact .inl ⟨rfl, by simp [execLegendre, hb]⟩
  | false =>
    cases hm : badModulus s.opm with
    | true => exact .inr (.inl ⟨rfl, rfl, by simp [execLegendre, hb, hm]⟩)
    | false => exact .inr (.inr ⟨rfl, rfl, by simp [execLegendre, hb, hm]⟩)

theorem execSqrtmod_cases (s : State) :
    (s.busy = true ∧ execSqrtmod s = .next s) ∨
    (s.busy = false ∧ badModulus s.opm = true ∧
      execSqrtmod s = .next (raiseFault .errBadp (latch .sqrtmod s))) ∨
    (s.busy = false ∧ badModulus s.opm = false ∧
      execSqrtmod s = .next (startPhase .init (latch .sqrtmod s))) := by
  cases hb : s.busy with
  | true => exact .inl ⟨rfl, by simp [execSqrtmod, hb]⟩
  | false =>
    cases hm : badModulus s.opm with
    | true => exact .inr (.inl ⟨rfl, rfl, by simp [execSqrtmod, hb, hm]⟩)
    | false => exact .inr (.inr ⟨rfl, rfl, by simp [execSqrtmod, hb, hm]⟩)

theorem issueCommand_busy (v : Word) (h : s.busy = true) : issueCommand v s = .next s := by
  simp [issueCommand, h]

theorem issueCommand_illegal {v : Word} {e : Illegal} (h : s.busy = false)
    (hd : decode v = .error e) :
    issueCommand v s = .next (complete .errIllegal 0#64 s) := by
  simp [issueCommand, h, hd]

theorem issueCommand_legal {v : Word} {i : Instr} (h : s.busy = false) (hd : decode v = .ok i) :
    issueCommand v s = exec i s := by
  simp [issueCommand, h, hd]

theorem step_nil (h : s.inbox = []) : step s = engineStep s := by
  simp [step, h]

theorem step_cons {e : Event} {es : List Event} (h : s.inbox = e :: es) :
    step s = runEvent e { s with inbox := es } := by
  simp [step, h]

theorem runEvent_read (i : RegIndex) (s : State) :
    runEvent (.hostRead i) s = .next (reply (hostReadValue i s) s) := rfl

theorem runEvent_engine (s : State) : runEvent .engine s = engineStep s := rfl

theorem runEvent_reset (s : State) : runEvent .reset s = .next (resetEngine s) := rfl

/-- A host write stores to an operand register, issues a command, or does nothing. -/
theorem runEvent_write_cases (i : RegIndex) (v : Word) (s : State) :
    (i = 0#3 ∧ runEvent (.hostWrite i v) s = .next { s with opa := v }) ∨
    (i = 1#3 ∧ runEvent (.hostWrite i v) s = .next { s with opb := v }) ∨
    (i = 2#3 ∧ runEvent (.hostWrite i v) s = .next { s with opm := v }) ∨
    (i = 3#3 ∧ runEvent (.hostWrite i v) s = issueCommand v s) ∨
    (4 ≤ i.toNat ∧ runEvent (.hostWrite i v) s = .next s) := by
  obtain ⟨i⟩ := i
  match i with
  | ⟨0, _⟩ => exact .inl ⟨rfl, rfl⟩
  | ⟨1, _⟩ => exact .inr (.inl ⟨rfl, rfl⟩)
  | ⟨2, _⟩ => exact .inr (.inr (.inl ⟨rfl, rfl⟩))
  | ⟨3, _⟩ => exact .inr (.inr (.inr (.inl ⟨rfl, rfl⟩)))
  | ⟨4, _⟩ => exact .inr (.inr (.inr (.inr ⟨Nat.le_of_ble_eq_true rfl, rfl⟩)))
  | ⟨5, _⟩ => exact .inr (.inr (.inr (.inr ⟨Nat.le_of_ble_eq_true rfl, rfl⟩)))
  | ⟨6, _⟩ => exact .inr (.inr (.inr (.inr ⟨Nat.le_of_ble_eq_true rfl, rfl⟩)))
  | ⟨7, _⟩ => exact .inr (.inr (.inr (.inr ⟨Nat.le_of_ble_eq_true rfl, rfl⟩)))

theorem engineRun_succ {k : Nat} (h : engineStep s = .next t) :
    engineRun (k + 1) s = engineRun k t := by
  simp [engineRun, h]

/-- An idle engine stays as it is. -/
theorem engineRun_idle (h : s.busy = false) (k : Nat) : engineRun k s = .next s := by
  induction k with
  | zero => rfl
  | succ k ih => rw [engineRun_succ (engineStep_idle h), ih]

theorem engineRun_add (j k : Nat) (s : State) :
    engineRun (j + k) s =
      match engineRun j s with
      | .next t => engineRun k t
      | .fault f => .fault f
      | .refused r => .refused r := by
  induction j generalizing s with
  | zero => simp [engineRun]
  | succ j ih =>
    rw [Nat.succ_add]
    simp only [engineRun]
    cases engineStep s with
    | next t => exact ih t
    | fault f => rfl
    | refused r => rfl

theorem eventRun_cons {e : Event} {es : List Event} (h : runEvent e s = .next t) :
    eventRun (e :: es) s = eventRun es t := by
  simp [eventRun, h]

end Sys2Proof.Machine
end

