-- ==== Sys2Proof/Laws/Script.lean ====
section
/-! SUPPORT. The names of a session, and what a turn of the host or of the engine can do. -/

namespace Sys2Proof.Machine

@[simp] theorem bindName_none (v : Word) (bs : List (Name × Word)) : bindName none v bs = bs := rfl

@[simp] theorem lookupName_bindName_self (x : Name) (v : Word) (bs : List (Name × Word)) :
    lookupName x (bindName (some x) v bs) = some v := by
  simp [bindName, lookupName]

theorem lookupName_filter_ne {x y : Name} (h : y ≠ x) (bs : List (Name × Word)) :
    lookupName y (bs.filter (fun b => b.1 ≠ x)) = lookupName y bs := by
  induction bs with
  | nil => rfl
  | cons b bs ih =>
    by_cases hb : b.1 = x
    · have : b.1 ≠ y := fun e => h (e.symm.trans hb)
      simp_all [lookupName]
    · simp_all [lookupName]

/-- Binding one name leaves every other as it was. -/
theorem lookupName_bindName_ne {x y : Name} (h : y ≠ x) (v : Word) (bs : List (Name × Word)) :
    lookupName y (bindName (some x) v bs) = lookupName y bs := by
  have hx : x ≠ y := fun e => h e.symm
  simp only [bindName, lookupName, if_neg hx]
  exact lookupName_filter_ne h bs

/-- A `wait` that saw BUSY = 1 stays, with `_st` bound. -/
theorem afterLine_wait_busy {v : Word} (h : v.toNat % 2 = 1) (dst : Option Name) (ls : List Line)
    (bs : List (Name × Word)) :
    afterLine (.wait dst) ls v bs = (.wait dst :: ls, bindName (some stName) v bs) := by
  simp [afterLine, h]

/-- A `wait` that saw BUSY = 0 is over, with `_st` and its own name bound. -/
theorem afterLine_wait_done {v : Word} (h : v.toNat % 2 ≠ 1) (dst : Option Name) (ls : List Line)
    (bs : List (Name × Word)) :
    afterLine (.wait dst) ls v bs = (ls, bindName dst v (bindName (some stName) v bs)) := by
  simp [afterLine, h]

/-- A turn of the host that makes the event `e`, and the machine's answer to it. -/
theorem hostTurn_of_event {x : Session} {l : Line} {ls : List Line} {e : Event} {t : State}
    (hs : x.script = l :: ls) (he : lineEvent x.names l = some e)
    (hr : runEvent e x.machine = .next t) :
    hostTurn x = .ok
      { machine := t
        script := (afterLine l ls (t.replies.headD 0#64) x.names).1
        names := (afterLine l ls (t.replies.headD 0#64) x.names).2 } := by
  simp [hostTurn, hs, he, step, hr]

/-- A turn of the engine is one engine step of the machine. -/
theorem engineTurn_of_step {x : Session} {t : State} (h : engineStep x.machine = .next t) :
    engineTurn x = .ok { x with machine := t } := by
  simp [engineTurn, step, runEvent, h]

end Sys2Proof.Machine
end

