-- ==== Sys2Proof/Tests/Slice0.lean ====
section
/-! SUPPORT. The model's own tests: well-formedness, decoding, single steps against the spec's
vectors, and for each statement with hypotheses a state that meets them. -/

namespace Sys2Proof.Machine.Tests

/-! ### Helpers -/

/-- An idle engine with its operand registers loaded. -/
def idleWith (a b m : Word) : State := { State.reset with opa := a, opb := b, opm := m }

/-- A busy engine in a phase of the command with opcode `op`, operands latched. -/
def running (op : BitVec 8) (ph : Phase) (a b p : Word) : State :=
  { State.reset with busy := true, ph := ph, wOp := op, wA := a, wB := b, wP := p }

/-- SQRTMOD in the correction loop. -/
def correcting (n p z s q m c t r : Word) : State :=
  { running 0x03#8 .corrLoop n 0#64 p with
    wN := n, wZ := z, wS := s, wQ := q, wM := m, wC := c, wT := t, wR := r }

def stateOf : Host.Outcome State Fault Refusal → Option State
  | .next s => some s
  | .fault _ => none
  | .refused _ => none

/-- The state of an outcome that has one. -/
def after (o : Host.Outcome State Fault Refusal) : State := (stateOf o).getD State.reset

theorem next_after {o : Host.Outcome State Fault Refusal} (h : (stateOf o).isSome = true) :
    o = .next (after o) := by
  cases o <;> simp_all [stateOf, after]

/-! ### Well-formedness: a term each check refuses (30_encoding.md R70, R72, R78) -/

theorem test_wf_reserved_bits : rsvZero 0x0000000000000101#64 = false := by decide

theorem test_wf_reserved_top_bit : commandWordWf 0x8000000000000003#64 = false := by decide

theorem test_wf_opcode_zero : opcLegal 0x0000000000000000#64 = false := by decide

theorem test_wf_opcode_four : commandWordWf 0x0000000000000004#64 = false := by decide

theorem test_wf_literal_too_wide : Val.wf [] (.lit 18446744073709551616) = false := by decide

theorem test_wf_name_unbound : Line.wf [1] (.wr .opa (.name 2)) = false := by decide

theorem test_wf_script_uses_name_before_binding :
    scriptWf [] [.wr .opa (.name 1), .rd .res (some 1)] = false := by decide

theorem test_wf_script_binds_then_uses :
    scriptWf [] [.rd .res (some 1), .wr .opa (.name 1)] = true := by decide

/-- R79: a `wait` binds `_st`, so a later line may use it; a read to `_` binds nothing. -/
theorem test_wf_wait_binds_st :
    scriptWf [] [.wait none, .wr .opa (.name stName)] = true ∧
    scriptWf [] [.rd .status none, .wr .opa (.name stName)] = false := by decide

/-- R79: a read with BUSY = 1 repeats the `wait`; the last read binds `_st` and the name. -/
theorem test_wait_binds_st_and_name :
    afterLine (.wait (some 5)) [] 0x01#64 [] = ([.wait (some 5)], [(stName, 0x01#64)]) ∧
    afterLine (.wait (some 5)) [] 0x12#64 [(stName, 0x01#64)] =
      ([], [(5, 0x12#64), (stName, 0x12#64)]) := by decide

/-! ### Decoding: words written out from R70 and R72, RSV in bits 63:8 and OPC in bits 7:0 -/

theorem test_decode_powmod_bits :
    decode 0b00000000000000000000000000000000000000000000000000000000_00000001#64 =
      .ok .powmod := by decide

theorem test_decode_legendre_bits :
    decode 0b00000000000000000000000000000000000000000000000000000000_00000010#64 =
      .ok .legendre := by decide

theorem test_decode_sqrtmod_bits :
    decode 0b00000000000000000000000000000000000000000000000000000000_00000011#64 =
      .ok .sqrtmod := by decide

/-- 95_test_vectors.md I7. -/
theorem test_decode_illegal_words :
    decode 0x04#64 = .error .opcode ∧ decode 0x100#64 = .error .reservedBits ∧
    decode 0x101#64 = .error .reservedBits ∧
    decode 0x0000000100000001#64 = .error .reservedBits ∧
    decode 0xFFFFFFFFFFFFFFFF#64 = .error .reservedBits := by decide

theorem test_decode_table_words :
    decodeTableWord 64 1 = some .powmod ∧ decodeTableWord 64 2 = some .legendre ∧
    decodeTableWord 64 3 = some .sqrtmod ∧ decodeTableWord 64 0x8000000000000003 = none := by decide

/-! ### Single steps, expected values from 95_test_vectors.md -/

/-- Section 2.3, last row: the product needs 128 bits. -/
theorem test_powmod_full_width :
    (after (engineStep (running 0x01#8 .pmExec 12345678901234567890#64 9876543210987654321#64
      18446744073709551427#64))).res = 2486855635145554194#64 := by decide +kernel

/-- Section 2.2, last row: exponent 0 does not rescue modulus 0. -/
theorem test_powmod_modulus_zero :
    (after (exec .powmod (idleWith 0#64 0#64 0#64))).code = .errModzero := by decide +kernel

/-- Section 6, last row: a composite modulus is computed literally. -/
theorem test_legendre_composite :
    (after (engineStep (running 0x02#8 .lgExec 200#64 7#64 255#64))).res = 140#64 := by
  decide +kernel

/-- Section 3, last row: an even modulus of full width. -/
theorem test_legendre_even_modulus :
    (after (exec .legendre (idleWith 5#64 0#64 18446744073709551614#64))).code = .errBadp := by
  decide +kernel

/-- Trace T5, step 7: `i = 3`, `b = 3`, and `r`, `c`, `t`, `m` all change. -/
theorem test_sqrtmod_correction :
    searchOf (after (engineStep (correcting 15#64 17#64 3#64 4#64 1#64 4#64 3#64 15#64 15#64))) =
      { m := 3#64, c := 9#64, t := 16#64, r := 11#64 } := by decide +kernel

/-- Section 5.2, second row: the fast path at full width. -/
theorem test_sqrtmod_fastpath_full_width :
    (after (engineStep
      { running 0x03#8 .fastpath 12345678901234567890#64 0#64 18446744073709551427#64 with
        wN := 12345678901234567890#64 })).res = 14167860040681329790#64 := by decide +kernel

/-! ### Witnesses: states that meet the hypotheses of the statements -/

theorem witness_StepRunsTheDecodedCommand :
    decode 0x03#64 = .ok .sqrtmod ∧ Instr.sqrtmod.wf = true ∧
    ({ idleWith 4#64 0#64 13#64 with inbox := [.hostWrite 3#3 0x03#64, .engine] } : State).inbox =
      .hostWrite 3#3 0x03#64 :: [.engine] := by decide

/-- The further clauses: an event of each kind waiting, and none. -/
theorem witness_StepTakesTheNextEvent :
    (∃ s : State, s.inbox = .hostRead 0#3 :: []) ∧
    (∃ s : State, s.inbox = .hostWrite 7#3 1#64 :: [.engine]) ∧
    (∃ s : State, s.inbox = .engine :: []) ∧ (∃ s : State, s.inbox = .reset :: []) ∧
    ∃ s : State, s.inbox = [] ∧ s.busy = true :=
  ⟨⟨{ State.reset with inbox := [.hostRead 0#3] }, rfl⟩,
    ⟨{ State.reset with inbox := [.hostWrite 7#3 1#64, .engine] }, rfl⟩,
    ⟨{ State.reset with inbox := [.engine] }, rfl⟩,
    ⟨{ State.reset with inbox := [.reset] }, rfl⟩,
    running 0x03#8 .init 4#64 0#64 13#64, rfl, rfl⟩

theorem witness_ResetEventAbortsWithoutTrace :
    ({ running 0x03#8 .init 4#64 0#64 13#64 with inbox := [.reset] } : State).inbox = [.reset] ∧
    ({ idleWith 1#64 2#64 3#64 with inbox := [.reset] } : State).inbox = [.reset] ∧
    ({ running 0x03#8 .init 4#64 0#64 13#64 with inbox := [.reset] } : State).replies =
      ({ idleWith 1#64 2#64 3#64 with inbox := [.reset] } : State).replies := by decide

/-- Trace T1 before step 6: SQRTMOD of 4 modulo 13 in CORRLOOP. -/
def t1 : State := correcting 4#64 13#64 2#64 2#64 3#64 2#64 8#64 12#64 3#64

theorem inv_t1 : Inv t1 := by
  constructor <;> decide +kernel

theorem witness_EveryStepKeepsTheInvariant : ∃ s t, Inv s ∧ step s = .next t ∧ s.busy = true :=
  ⟨t1, after (step t1), inv_t1, next_after (by decide +kernel), rfl⟩

theorem witness_NoStepStopsUnderTheInvariant : ∃ s, Inv s ∧ s.ph = .corrLoop := ⟨t1, inv_t1, rfl⟩

/-- Each clause, at the largest modulus below the domain and at an even one. -/
theorem witness_PhasesStopOutsideTheirDomain :
    (running 0x01#8 .pmExec 2#64 3#64 0#64).wP.toNat = 0 ∧
    (running 0x01#8 .pmExec 2#64 3#64 0#64).busy = true ∧
    (running 0x02#8 .lgExec 2#64 3#64 1#64).ph.oddModulus = true ∧
    (running 0x02#8 .lgExec 2#64 3#64 1#64).wP.toNat < 3 ∧
    (running 0x03#8 .corrLoop 2#64 3#64 4#64).ph.oddModulus = true ∧
    (running 0x03#8 .corrLoop 2#64 3#64 4#64).wP.toNat % 2 = 0 := by decide

theorem witness_HostReadReturnsAndChangesNothing : ∃ s, Inv s ∧ s.busy = true := ⟨t1, inv_t1, rfl⟩

/-- An idle engine whose last command ended with code `c` and RES 0. -/
theorem inv_ended (c : Code) : Inv { idleWith 2#64 10#64 1000#64 with code := c } := by
  cases c <;> constructor <;> decide

/-- Busy, idle with each of the six outcomes, and idle with none. -/
theorem witness_StatusReadsAsLaidOut :
    (∃ s, Inv s ∧ s.busy = true) ∧ (∀ c : Code, ∃ s, Inv s ∧ s.code = c) ∧
    ∃ s, Inv s ∧ s.code = .none ∧ s.busy = false :=
  ⟨⟨t1, inv_t1, rfl⟩, fun c => ⟨_, inv_ended c, rfl⟩, ⟨_, inv_ended .none, rfl, rfl⟩⟩

/-- A write to each operand register, a reset, a read and a turn of the engine all answer. -/
theorem witness_OperandRegistersArePlainStorage :
    (∃ t, runEvent (.hostWrite 0#3 9#64) t1 = .next t) ∧
    (∃ t, runEvent (.hostWrite 2#3 9#64) t1 = .next t) ∧
    (∃ t, runEvent .reset t1 = .next t) ∧ (∃ t, runEvent (.hostRead 4#3) t1 = .next t) ∧
    ∃ t, engineStep t1 = .next t :=
  ⟨⟨_, rfl⟩, ⟨_, rfl⟩, ⟨_, rfl⟩, ⟨_, rfl⟩, ⟨_, next_after (by decide +kernel)⟩⟩

theorem witness_ResultStaysUntilTheNextIssue :
    (idleWith 2#64 10#64 1000#64).busy = false ∧
    ∀ e ∈ [Event.hostRead 4#3, .hostWrite 2#3 7#64, .hostWrite 4#3 7#64, .engine],
      e.issuesNothing = true := by decide

theorem witness_RunningCommandIgnoresTheHost :
    Event.reset ∉ [Event.hostRead 5#3, .hostWrite 3#3 1#64, .engine, .hostWrite 0#3 9#64] := by
  decide

/-- Two INIT states with different working registers. -/
theorem witness_HiddenRegistersAreUnobservable :
    SameLive (running 0x03#8 .init 4#64 0#64 13#64)
      { running 0x03#8 .init 4#64 0#64 13#64 with wN := 5#64, wZ := 6#64, wT := 7#64 } := by
  constructor <;> decide

/-- LEGENDRE of 2 modulo 7 issued on two idle engines with different histories, under two schedules. -/
theorem witness_OutcomeIsAFunctionOfTheOperands :
    ∃ (s₁ s₂ t₁ t₂ u₁ u₂ : State) (es₁ es₂ : List Event),
      s₁.busy = false ∧ s₂.busy = false ∧ s₁.opa = s₂.opa ∧ s₁.opb = s₂.opb ∧ s₁.opm = s₂.opm ∧
      exec .legendre s₁ = .next t₁ ∧ exec .legendre s₂ = .next t₂ ∧
      .reset ∉ es₁ ∧ .reset ∉ es₂ ∧
      commandRun es₁ t₁ = .next u₁ ∧ commandRun es₂ t₂ = .next u₂ ∧
      u₁.busy = false ∧ u₂.busy = false :=
  let s₁ := idleWith 2#64 0#64 7#64
  let s₂ := { idleWith 2#64 0#64 7#64 with wN := 9#64, code := .noroot }
  let es : List Event := [.hostWrite 0#3 1#64, .hostWrite 3#3 1#64, .engine, .engine]
  ⟨s₁, s₂, after (exec .legendre s₁), after (exec .legendre s₂),
    after (commandRun [.engine] (after (exec .legendre s₁))),
    after (commandRun es (after (exec .legendre s₂))), [.engine], es,
    rfl, rfl, rfl, rfl, rfl, next_after (by decide +kernel), next_after (by decide +kernel),
    by decide, by decide, next_after (by decide +kernel), next_after (by decide +kernel),
    by decide +kernel, by decide +kernel⟩

theorem witness_EngineStepsKeepTheirFrame : ∃ t, engineStep t1 = .next t ∧ t1.ph ≠ .init :=
  ⟨_, next_after (by decide +kernel), by decide⟩

/-- The clauses of the edge cases, each at its boundary. -/
theorem witness_PowModEdgeCasesHold :
    (∃ m : Modulus, m.val.toNat = 1) ∧
    (∃ (b e : Word) (m : Modulus), b.toNat % m.val.toNat = 0 ∧ 0 < e.toNat ∧ 1 < m.val.toNat) ∧
    ∃ (b : Word) (m : Modulus), b.toNat % m.val.toNat = 1 ∧ 1 < m.val.toNat :=
  ⟨⟨⟨1#64, by decide⟩, by decide⟩, ⟨14#64, 1#64, ⟨7#64, by decide⟩, by decide⟩,
    ⟨3#64, ⟨2#64, by decide⟩, by decide⟩⟩

/-- The smallest modulus, and a state in PM_EXEC. -/
theorem witness_PowmodAcceptsAndCompletes :
    ((idleWith 5#64 0#64 1#64).busy = false ∧ (idleWith 5#64 0#64 1#64).opm.toNat ≠ 0) ∧
    ((running 0x01#8 .pmExec 2#64 10#64 1#64).busy = true ∧
      (running 0x01#8 .pmExec 2#64 10#64 1#64).ph = .pmExec ∧
      (running 0x01#8 .pmExec 2#64 10#64 1#64).wP.toNat ≠ 0) := by decide

theorem witness_PowmodChecksOnlyForModulusZero :
    ((idleWith 5#64 3#64 0#64).busy = false ∧ (idleWith 5#64 3#64 0#64).opm.toNat = 0) ∧
    ((idleWith 5#64 3#64 1#64).busy = false ∧ 1 ≤ (idleWith 5#64 3#64 1#64).opm.toNat) ∧
    t1.busy = true := by decide

/-- The smallest legal modulus. -/
theorem witness_LegendreAcceptsAndCompletes :
    ((idleWith 2#64 0#64 3#64).busy = false ∧ (idleWith 2#64 0#64 3#64).opm.toNat % 2 = 1 ∧
      3 ≤ (idleWith 2#64 0#64 3#64).opm.toNat) ∧
    ((running 0x02#8 .lgExec 2#64 0#64 3#64).busy = true ∧
      (running 0x02#8 .lgExec 2#64 0#64 3#64).ph = .lgExec ∧
      (running 0x02#8 .lgExec 2#64 0#64 3#64).wP.toNat % 2 = 1 ∧
      3 ≤ (running 0x02#8 .lgExec 2#64 0#64 3#64).wP.toNat) := by decide

/-- Of LEGENDRE and SQRTMOD alike: moduli 1, 2 and 4 are refused, 3 is accepted. -/
theorem witness_LegendreChecksParityAndSize :
    (idleWith 5#64 0#64 1#64).busy = false ∧ (idleWith 5#64 0#64 1#64).opm.toNat < 3 ∧
    (idleWith 5#64 0#64 2#64).opm.toNat % 2 = 0 ∧ (idleWith 5#64 0#64 4#64).opm.toNat % 2 = 0 ∧
    (idleWith 5#64 0#64 3#64).opm.toNat % 2 = 1 ∧ 3 ≤ (idleWith 5#64 0#64 3#64).opm.toNat ∧
    t1.busy = true := by decide

theorem witness_SqrtmodChecksParityAndSize :
    (idleWith 4#64 0#64 1#64).busy = false ∧ (idleWith 4#64 0#64 1#64).opm.toNat < 3 ∧
    (idleWith 4#64 0#64 12#64).opm.toNat % 2 = 0 ∧
    (idleWith 4#64 0#64 3#64).opm.toNat % 2 = 1 ∧ 3 ≤ (idleWith 4#64 0#64 3#64).opm.toNat ∧
    t1.busy = true := by decide

/-- The odd moduli used below. -/
def mod13 : OddModulus := ⟨13#64, by decide⟩

def mod7 : OddModulus := ⟨7#64, by decide⟩

theorem prime_mod13 : mod13.val.toNat.Prime := by
  change Nat.Prime 13
  norm_num

theorem prime_mod7 : mod7.val.toNat.Prime := by
  change Nat.Prime 7
  norm_num

theorem witness_LegendreValueMeetsEulersCriterion : ∃ p : OddModulus, p.val.toNat.Prime :=
  ⟨mod13, prime_mod13⟩

/-- INIT with `n = p` (the zero clause) and with `n = p - 1`. -/
theorem witness_InitReducesTheOperand :
    (running 0x03#8 .init 3#64 0#64 3#64).busy = true ∧
    (running 0x03#8 .init 3#64 0#64 3#64).ph = .init ∧
    (running 0x03#8 .init 3#64 0#64 3#64).wP.toNat % 2 = 1 ∧
    3 ≤ (running 0x03#8 .init 3#64 0#64 3#64).wP.toNat ∧
    (running 0x03#8 .init 3#64 0#64 3#64).wA.toNat % 3 = 0 ∧
    (running 0x03#8 .init 2#64 0#64 3#64).wA.toNat % 3 = 2 := by decide

/-- DISPATCH on a non-residue, on the fast path and on the general path. -/
theorem witness_DispatchTestsTheResidueAndSplits :
    (running 0x03#8 .dispatch 2#64 0#64 3#64).busy = true ∧
    (running 0x03#8 .dispatch 2#64 0#64 3#64).ph = .dispatch ∧
    (running 0x03#8 .dispatch 2#64 0#64 3#64).wP.toNat % 2 = 1 ∧
    3 ≤ (running 0x03#8 .dispatch 2#64 0#64 3#64).wP.toNat ∧
    2 ^ ((3 - 1) / 2) % 3 ≠ 1 ∧
    (1 ^ ((3 - 1) / 2) % 3 = 1 ∧ 3 % 4 = 3) ∧ (4 ^ ((5 - 1) / 2) % 5 = 1 ∧ 5 % 4 ≠ 3) := by decide

theorem witness_FastpathDeliversThePower :
    (running 0x03#8 .fastpath 1#64 0#64 3#64).busy = true ∧
    (running 0x03#8 .fastpath 1#64 0#64 3#64).ph = .fastpath ∧
    (running 0x03#8 .fastpath 1#64 0#64 3#64).wP.toNat % 4 = 3 ∧
    3 ≤ (running 0x03#8 .fastpath 1#64 0#64 3#64).wP.toNat := by decide

/-- GS_ZSEARCH on a residue, and on the candidate that ends the search (trace T5). -/
theorem witness_ZsearchTriesOneCandidate :
    ∃ s₁ s₂ : State, s₁.busy = true ∧ s₁.ph = .gsZsearch ∧ s₁.wP.toNat % 2 = 1 ∧
      3 ≤ s₁.wP.toNat ∧ s₁.wZ.toNat ≤ s₁.wP.toNat ∧
      s₁.wZ.toNat ^ ((s₁.wP.toNat - 1) / 2) % s₁.wP.toNat = 1 ∧
      s₂.busy = true ∧ s₂.ph = .gsZsearch ∧ s₂.wP.toNat = 17 ∧ s₂.wZ.toNat ≤ s₂.wP.toNat ∧
      s₂.wZ.toNat ^ ((s₂.wP.toNat - 1) / 2) % s₂.wP.toNat ≠ 1 ∧ 2 ≤ s₂.wZ.toNat ∧
      ∀ y, 2 ≤ y → y < s₂.wZ.toNat → y ^ ((s₂.wP.toNat - 1) / 2) % s₂.wP.toNat = 1 := by
  refine ⟨{ running 0x03#8 .gsZsearch 15#64 0#64 17#64 with wN := 15#64, wZ := 2#64 },
    { running 0x03#8 .gsZsearch 15#64 0#64 17#64 with wN := 15#64, wZ := 3#64 },
    by decide, by decide, by decide, by decide, by decide, by decide, by decide, by decide,
    by decide, by decide, by decide, by decide, ?_⟩
  intro y h2 h3
  obtain rfl : y = 2 := by
    change y < 3 at h3
    omega
  decide

theorem witness_ZsearchEndsOnTheLeastNonResidue :
    ∃ (s : State) (p : OddModulus), Inv s ∧ s.ph.afterSearch = true ∧ p.val = s.wP :=
  ⟨t1, mod13, inv_t1, rfl, rfl⟩

theorem witness_FactorSplitsThePredecessor :
    (running 0x03#8 .gsFactor 1#64 0#64 5#64).busy = true ∧
    (running 0x03#8 .gsFactor 1#64 0#64 5#64).ph = .gsFactor ∧
    (running 0x03#8 .gsFactor 1#64 0#64 5#64).wP.toNat % 2 = 1 ∧
    3 ≤ (running 0x03#8 .gsFactor 1#64 0#64 5#64).wP.toNat := by decide

theorem witness_InitvarsSetsTheSearchState :
    (running 0x03#8 .gsInitvars 1#64 0#64 5#64).busy = true ∧
    (running 0x03#8 .gsInitvars 1#64 0#64 5#64).ph = .gsInitvars ∧
    (running 0x03#8 .gsInitvars 1#64 0#64 5#64).wP.toNat % 2 = 1 ∧
    3 ≤ (running 0x03#8 .gsInitvars 1#64 0#64 5#64).wP.toNat := by decide

/-- The three clauses: `t = 1`; `m = 1` with `t ≠ 1`, whose range is empty (n = 8, p = 9); and trace
T1 with `i = 1 = m - 1`. -/
theorem witness_CorrloopTestsAndCorrects :
    (∃ s : State, s.busy = true ∧ s.ph = .corrLoop ∧ s.wP.toNat % 2 = 1 ∧ 3 ≤ s.wP.toNat ∧
      s.wM.toNat ≤ 63 ∧ s.wT.toNat = 1) ∧
    (∃ s : State, s.busy = true ∧ s.ph = .corrLoop ∧ s.wP.toNat % 2 = 1 ∧ 3 ≤ s.wP.toNat ∧
      s.wM.toNat ≤ 63 ∧ s.wT.toNat ≠ 1 ∧
      ∀ i, 1 ≤ i → i < s.wM.toNat → s.wT.toNat ^ 2 ^ i % s.wP.toNat ≠ 1) ∧
    (t1.busy = true ∧ t1.ph = .corrLoop ∧ t1.wP.toNat % 2 = 1 ∧ 3 ≤ t1.wP.toNat ∧
      t1.wM.toNat ≤ 63 ∧ t1.wT.toNat ≠ 1 ∧ 1 < t1.wM.toNat ∧
      t1.wT.toNat ^ 2 ^ 1 % t1.wP.toNat = 1 ∧
      ∀ j, 1 ≤ j → j < 1 → t1.wT.toNat ^ 2 ^ j % t1.wP.toNat ≠ 1) := by
  refine ⟨⟨correcting 4#64 13#64 2#64 2#64 3#64 1#64 12#64 1#64 11#64, by decide⟩,
    ⟨correcting 8#64 9#64 2#64 3#64 1#64 1#64 7#64 2#64 5#64, by decide, by decide, by decide,
      by decide, by decide, by decide, ?_⟩,
    by decide, by decide, by decide, by decide, by decide, by decide, by decide, by decide, ?_⟩
  · intro i h1 h2
    change i < 1 at h2
    omega
  · intro j h1 h2
    omega

/-- `v = 1`, the smallest nonzero value, and a split of `v = 12`. -/
theorem witness_Factor2GivesTheUniqueSplit :
    (1#64 : Word).toNat ≠ 0 ∧ (12#64 : Word).toNat % 2 = 0 ∧ (12#64 : Word).toNat = 2 ^ 2 * 3 ∧ 3 % 2 = 1 := by decide

theorem witness_NonResidueSearchIsBounded :
    ∃ p : OddModulus, p.val.toNat.Prime ∧ p.val.toNat % 4 = 1 :=
  ⟨mod13, prime_mod13, by decide⟩

theorem witness_SqrtmodCompletesWithSqrtMod :
    ∃ (s : State) (p : OddModulus), s.busy = false ∧ p.val = s.opm :=
  ⟨idleWith 4#64 0#64 13#64, mod13, rfl, rfl⟩

theorem witness_SqrtmodCompletesWithinTheBound :
    (idleWith 1#64 0#64 3#64).busy = false ∧ (idleWith 1#64 0#64 3#64).opm.toNat % 2 = 1 ∧
    3 ≤ (idleWith 1#64 0#64 3#64).opm.toNat := by decide

/-- Trace T2: 2 modulo 7. -/
theorem witness_FastpathDeliversARoot :
    ∃ s : State, s.busy = true ∧ s.ph = .fastpath ∧ 3 ≤ s.wP.toNat ∧ s.wP.toNat % 4 = 3 ∧
      s.wN.toNat ^ ((s.wP.toNat - 1) / 2) % s.wP.toNat = 1 :=
  ⟨{ running 0x03#8 .fastpath 2#64 0#64 7#64 with wN := 2#64 }, by decide⟩

/-- Trace T1 at GS_INITVARS, at the iteration and at the last step. -/
theorem witness_CorrectionLoopKeepsItsInvariant :
    (∃ s t : State, s.busy = true ∧ engineStep s = .next t ∧ s.ph = .gsInitvars ∧
      s.wQ.toNat % 2 = 1) ∧
    (∃ t : State, t1.busy = true ∧ engineStep t1 = .next t ∧ t1.ph = .corrLoop ∧
      t1.wR.toNat * t1.wR.toNat % t1.wP.toNat = t1.wT.toNat * t1.wN.toNat % t1.wP.toNat ∧
      t.busy = true) ∧
    (∃ s t : State, s.busy = true ∧ engineStep s = .next t ∧ s.ph = .corrLoop ∧
      s.wR.toNat * s.wR.toNat % s.wP.toNat = s.wT.toNat * s.wN.toNat % s.wP.toNat ∧
      t.code = .ok ∧ t.busy = false) :=
  ⟨⟨{ running 0x03#8 .gsInitvars 4#64 0#64 13#64 with
      wN := 4#64, wZ := 2#64, wS := 2#64, wQ := 3#64 }, _, rfl, next_after (by decide +kernel),
      rfl, by decide⟩,
    ⟨_, rfl, next_after (by decide +kernel), rfl, by decide, by decide +kernel⟩,
    ⟨correcting 4#64 13#64 2#64 2#64 3#64 1#64 12#64 1#64 11#64, _, rfl,
      next_after (by decide +kernel), rfl, by decide, by decide +kernel, by decide +kernel⟩⟩

/-- Trace T2: 2 modulo 7 completes with OK in three steps. -/
theorem witness_SqrtmodRootSquaresBack :
    ∃ (s t u : State) (k : Nat), s.busy = false ∧ s.opm.toNat % 2 = 1 ∧ 3 ≤ s.opm.toNat ∧
      exec .sqrtmod s = .next t ∧ engineRun k t = .next u ∧ u.busy = false ∧ u.code = .ok :=
  ⟨idleWith 2#64 0#64 7#64, after (exec .sqrtmod (idleWith 2#64 0#64 7#64)),
    after (engineRun 3 (after (exec .sqrtmod (idleWith 2#64 0#64 7#64)))), 3,
    by decide, by decide, by decide, next_after (by decide +kernel),
    next_after (by decide +kernel), by decide +kernel, by decide +kernel⟩

/-- A residue (4 modulo 13) and a non-residue (3 modulo 7). -/
theorem witness_SqrtmodIsCompleteForPrimes :
    (∃ s : State, s.busy = false ∧ s.opm.toNat.Prime ∧ s.opm.toNat ≠ 2 ∧
      ∃ x : Nat, x * x % s.opm.toNat = s.opa.toNat % s.opm.toNat) ∧
    (∃ s : State, s.busy = false ∧ s.opm.toNat.Prime ∧ s.opm.toNat ≠ 2 ∧
      ¬∃ x : Nat, x * x % s.opm.toNat = s.opa.toNat % s.opm.toNat) ∧
    ∃ p : OddModulus, p.val.toNat.Prime := by
  refine ⟨⟨idleWith 4#64 0#64 13#64, rfl, prime_mod13, by decide, 2, by decide⟩,
    ⟨idleWith 3#64 0#64 7#64, rfl, prime_mod7, by decide, ?_⟩, mod13, prime_mod13⟩
  rintro ⟨x, hx⟩
  change x * x % 7 = 3 at hx
  have h7 : x % 7 < 7 := Nat.mod_lt _ (by decide)
  rw [Nat.mul_mod] at hx
  generalize x % 7 = y at hx h7
  interval_cases y <;> omega

/-- Trace T1 at GS_INITVARS and in CORRLOOP. -/
theorem witness_PrimeCorrectionLoopAlwaysFindsI :
    (∃ s : State, s.busy = true ∧ s.wP.toNat.Prime ∧ s.wP.toNat ≠ 2 ∧ s.ph = .gsInitvars ∧
      s.wP.toNat - 1 = 2 ^ s.wS.toNat * s.wQ.toNat ∧ 1 ≤ s.wS.toNat ∧
      s.wN.toNat ^ ((s.wP.toNat - 1) / 2) % s.wP.toNat = 1 ∧
      s.wZ.toNat ^ ((s.wP.toNat - 1) / 2) % s.wP.toNat = s.wP.toNat - 1) ∧
    (t1.busy = true ∧ t1.wP.toNat.Prime ∧ t1.wP.toNat ≠ 2 ∧ t1.ph = .corrLoop ∧ OrderInv t1 ∧
      t1.wT.toNat < t1.wP.toNat ∧ t1.wT.toNat ≠ 1 ∧ 1 ≤ t1.wM.toNat ∧ t1.wM.toNat ≤ 63) :=
  ⟨⟨{ running 0x03#8 .gsInitvars 4#64 0#64 13#64 with
      wN := 4#64, wZ := 2#64, wS := 2#64, wQ := 3#64 }, rfl, prime_mod13, by decide, rfl,
      by decide, by decide, by decide, by decide⟩,
    rfl, prime_mod13, by decide, rfl, ⟨by decide, by decide⟩, by decide, by decide, by decide,
    by decide⟩

/-- The root 11 of 4 modulo 13, and the root 0 of 0. -/
theorem witness_ComplementIsTheOnlyOtherRoot :
    mod13.val.toNat.Prime ∧ sqrtMod 4#64 mod13 = (.ok, 11#64) ∧ (11#64 : Word).toNat ≠ 0 ∧
      sqrtMod 0#64 mod13 = (.ok, 0#64) :=
  ⟨prime_mod13, by decide +kernel, by decide, by decide +kernel⟩

theorem witness_SqrtModCornerCasesHold :
    (26#64 : Word).toNat % mod13.val.toNat = 0 ∧ (14#64 : Word).toNat % mod13.val.toNat = 1 := by
  decide

theorem witness_PowmodLineBindsThePower :
    ∃ (x : Session) (a b m : Word), x.machine.busy = false ∧ m.toNat ≠ 0 ∧
      x.script =
        expandLine (.powmod (.lit a.toNat) (.lit b.toNat) (.lit m.toNat) (some 1)) ++ [] ∧ (1 : Name) ≠ stName :=
  ⟨{ machine := State.reset
     script := expandLine (.powmod (.lit 2) (.lit 10) (.lit 1000) (some 1))
     names := [] }, 2#64, 10#64, 1000#64, rfl, by decide, by decide, by decide⟩

end Sys2Proof.Machine.Tests
end

section
/-! SUPPORT. The statements of 00_scope.md: the frame of an engine step, and the outcome of a command
as a function of its opcode and operands. The latter goes in two moves. Seen through `engineView`, a
running command has only its engine turns (10_state.md R29), whatever the host does between them; and
engine turns take two states that agree on the live registers (10_state.md R31) to two such states. -/

namespace Sys2Proof.Machine

/-! ### The engine seen through `engineView` -/

@[simp] theorem viewOutcome_next (s : State) : viewOutcome (.next s) = .next (engineView s) := rfl

theorem viewOutcome_withModulus (w : Word) (k : Modulus → Host.Outcome State Fault Refusal) :
    viewOutcome (withModulus w k) = withModulus w fun m => viewOutcome (k m) :=
  apply_dite viewOutcome _ _ _

theorem viewOutcome_withOddModulus (w : Word)
    (k : OddModulus → Host.Outcome State Fault Refusal) :
    viewOutcome (withOddModulus w k) = withOddModulus w fun p => viewOutcome (k p) :=
  apply_dite viewOutcome _ _ _

theorem viewOutcome_withinWidth (n : Nat) (k : Word → Host.Outcome State Fault Refusal) :
    viewOutcome (withinWidth n k) = withinWidth n fun v => viewOutcome (k v) :=
  apply_ite viewOutcome _ _ _

theorem stepPmExec_engineView (s : State) :
    stepPmExec (engineView s) = viewOutcome (stepPmExec s) := by
  simp only [stepPmExec, viewOutcome_withModulus]
  rfl

theorem stepLgExec_engineView (s : State) :
    stepLgExec (engineView s) = viewOutcome (stepLgExec s) := by
  simp only [stepLgExec, viewOutcome_withOddModulus]
  rfl

theorem stepInit_engineView (s : State) :
    stepInit (engineView s) = viewOutcome (stepInit s) := by
  simp only [stepInit, viewOutcome_withOddModulus, apply_ite viewOutcome]
  rfl

theorem stepDispatch_engineView (s : State) :
    stepDispatch (engineView s) = viewOutcome (stepDispatch s) := by
  simp only [stepDispatch, viewOutcome_withOddModulus, apply_ite viewOutcome]
  rfl

theorem stepFastpath_engineView (s : State) :
    stepFastpath (engineView s) = viewOutcome (stepFastpath s) := by
  simp only [stepFastpath, viewOutcome_withOddModulus]
  rfl

theorem stepGsZsearch_engineView (s : State) :
    stepGsZsearch (engineView s) = viewOutcome (stepGsZsearch s) := by
  simp only [stepGsZsearch, viewOutcome_withOddModulus, apply_ite viewOutcome,
    viewOutcome_withinWidth]
  rfl

theorem stepGsFactor_engineView (s : State) :
    stepGsFactor (engineView s) = viewOutcome (stepGsFactor s) := by
  simp only [stepGsFactor, viewOutcome_withOddModulus]
  rfl

theorem stepGsInitvars_engineView (s : State) :
    stepGsInitvars (engineView s) = viewOutcome (stepGsInitvars s) := by
  simp only [stepGsInitvars, viewOutcome_withOddModulus]
  rfl

theorem stepCorrLoop_engineView (s : State) :
    stepCorrLoop (engineView s) = viewOutcome (stepCorrLoop s) := by
  have hsearch (p : OddModulus) : leastI (engineView s).wT (engineView s).wM p =
      leastI s.wT s.wM p := rfl
  simp only [stepCorrLoop, viewOutcome_withOddModulus, apply_ite viewOutcome, hsearch]
  congr 1
  funext p
  cases leastI s.wT s.wM p with
  | none => rfl
  | some i => simp only [apply_ite viewOutcome]; rfl

/-- A turn of the engine neither reads nor writes what `engineView` hides (00_scope.md R8). -/
theorem engineStep_engineView (s : State) :
    engineStep (engineView s) = viewOutcome (engineStep s) := by
  cases hb : s.busy with
  | false => rw [engineStep_idle hb, engineStep_idle (s := engineView s) hb]; rfl
  | true =>
    rw [engineStep_busy hb, engineStep_busy (s := engineView s) hb]
    have hview : (engineView s).ph = s.ph := rfl
    cases hp : s.ph <;> simp only [phaseStep, hview, hp]
    case idle => rfl
    case pmExec => exact stepPmExec_engineView s
    case lgExec => exact stepLgExec_engineView s
    case init => exact stepInit_engineView s
    case dispatch => exact stepDispatch_engineView s
    case fastpath => exact stepFastpath_engineView s
    case gsZsearch => exact stepGsZsearch_engineView s
    case gsFactor => exact stepGsFactor_engineView s
    case gsInitvars => exact stepGsInitvars_engineView s
    case corrLoop => exact stepCorrLoop_engineView s

theorem engineRun_engineView (k : Nat) (s : State) :
    engineRun k (engineView s) = viewOutcome (engineRun k s) := by
  induction k generalizing s with
  | zero => rfl
  | succ k ih =>
    simp only [engineRun, engineStep_engineView]
    cases engineStep s with
    | next t => exact ih t
    | fault f => rfl
    | refused r => rfl

/-- While a command runs, a host transaction changes nothing the engine reads (10_state.md R29,
30_encoding.md R74). -/
theorem runEvent_host_busy {e : Event} {s : State} (hb : s.busy = true) (he : e ≠ .engine)
    (hr : e ≠ .reset) : ∃ t, runEvent e s = .next t ∧ engineView t = engineView s := by
  cases e with
  | hostRead i => exact ⟨_, runEvent_read i s, rfl⟩
  | hostWrite i v =>
    obtain ⟨-, h⟩ | ⟨-, h⟩ | ⟨-, h⟩ | ⟨-, h⟩ | ⟨-, h⟩ := runEvent_write_cases i v s
    · exact ⟨_, h, rfl⟩
    · exact ⟨_, h, rfl⟩
    · exact ⟨_, h, rfl⟩
    · exact ⟨s, h.trans (issueCommand_busy v hb), rfl⟩
    · exact ⟨s, h, rfl⟩
  | engine => exact absurd rfl he
  | reset => exact absurd rfl hr

theorem commandRun_idle {s : State} (h : s.busy = false) (es : List Event) :
    commandRun es s = .next s := by
  cases es <;> simp [commandRun, h]

theorem commandRun_busy_cons {s t : State} {e : Event} (hb : s.busy = true)
    (h : runEvent e s = .next t) (es : List Event) :
    commandRun (e :: es) s = commandRun es t := by
  simp [commandRun, hb, h]

/-- A command under any schedule without reset is, for the engine, its engine turns alone. -/
theorem viewOutcome_commandRun {es : List Event} (hr : .reset ∉ es) (s : State) :
    viewOutcome (commandRun es s) = viewOutcome (engineRun (engineTurns es) s) := by
  induction es generalizing s with
  | nil => rfl
  | cons e es ih =>
    obtain ⟨hre, hres⟩ := not_or.1 (List.mem_cons.not.1 hr)
    cases hb : s.busy with
    | false => rw [commandRun_idle hb, engineRun_idle hb]
    | true =>
      by_cases he : e = .engine
      · subst he
        simp only [engineTurns, List.count_cons_self, commandRun, hb, engineRun, runEvent_engine]
        cases engineStep s with
        | next t => exact ih hres t
        | fault f => rfl
        | refused r => rfl
      · obtain ⟨t, ht, hv⟩ := runEvent_host_busy hb he (Ne.symm hre)
        rw [commandRun_busy_cons hb ht, ih hres, ← engineRun_engineView, hv, engineRun_engineView,
          engineTurns, engineTurns, List.count_cons_of_ne he]

/-! ### The live registers determine the engine's step -/

section

variable {a b : State} {w : Word}

theorem sameLive_withModulus {j k : Modulus → Host.Outcome State Fault Refusal}
    (h : ∀ m, SameLiveOutcome (j m) (k m)) :
    SameLiveOutcome (withModulus w j) (withModulus w k) := by
  unfold withModulus
  split
  · exact h _
  · rfl

theorem sameLive_withOddModulus {j k : OddModulus → Host.Outcome State Fault Refusal}
    (h : ∀ p, SameLiveOutcome (j p) (k p)) :
    SameLiveOutcome (withOddModulus w j) (withOddModulus w k) := by
  unfold withOddModulus
  split
  · exact h _
  · rfl

theorem sameLive_withinWidth {n : Nat} {j k : Word → Host.Outcome State Fault Refusal}
    (h : ∀ v, SameLiveOutcome (j v) (k v)) :
    SameLiveOutcome (withinWidth n j) (withinWidth n k) := by
  unfold withinWidth
  split
  · exact h _
  · rfl

/-- A completed command leaves no hidden register live. -/
theorem sameLive_complete (h : SameLive a b) (c : Code) (v : Word) :
    SameLive (complete c v a) (complete c v b) := by
  constructor <;> simp [h.opa, h.opb, h.opm, h.inbox, h.replies, Phase.needsN, Phase.needsZ]

theorem sameLive_stepPmExec (h : SameLive a b) (hp : a.ph = .pmExec) :
    SameLiveOutcome (stepPmExec a) (stepPmExec b) := by
  obtain ⟨hA, hB, hP⟩ := h.latched (by simp [hp])
  simp only [stepPmExec, hA, hB, hP]
  exact sameLive_withModulus fun m => sameLive_complete h _ _

theorem sameLive_stepLgExec (h : SameLive a b) (hp : a.ph = .lgExec) :
    SameLiveOutcome (stepLgExec a) (stepLgExec b) := by
  obtain ⟨hA, -, hP⟩ := h.latched (by simp [hp])
  simp only [stepLgExec, hA, hP]
  exact sameLive_withOddModulus fun p => sameLive_complete h _ _

theorem sameLive_stepInit (h : SameLive a b) (hp : a.ph = .init) :
    SameLiveOutcome (stepInit a) (stepInit b) := by
  obtain ⟨hA, hB, hP⟩ := h.latched (by simp [hp])
  simp only [stepInit, hA, hP]
  refine sameLive_withOddModulus fun p => ?_
  split
  · constructor <;> simp [h.opa, h.opb, h.opm, h.inbox, h.replies, Phase.needsN, Phase.needsZ]
  · constructor <;> simp [h.opa, h.opb, h.opm, h.res, h.busy, h.code, h.inbox, h.replies, hB,
      Phase.needsZ]

theorem sameLive_stepDispatch (h : SameLive a b) (hp : a.ph = .dispatch) :
    SameLiveOutcome (stepDispatch a) (stepDispatch b) := by
  obtain ⟨hA, hB, hP⟩ := h.latched (by simp [hp])
  have hN := h.n (by simp [hp, Phase.needsN])
  simp only [stepDispatch, hP, hN]
  refine sameLive_withOddModulus fun p => ?_
  split
  · exact sameLive_complete h _ _
  · split
    · constructor <;> simp [h.opa, h.opb, h.opm, h.res, h.busy, h.code, h.inbox, h.replies, hA, hB,
        Phase.needsZ]
    · constructor <;> simp [h.opa, h.opb, h.opm, h.res, h.busy, h.code, h.inbox, h.replies, hA, hB]

theorem sameLive_stepFastpath (h : SameLive a b) (hp : a.ph = .fastpath) :
    SameLiveOutcome (stepFastpath a) (stepFastpath b) := by
  obtain ⟨-, -, hP⟩ := h.latched (by simp [hp])
  have hN := h.n (by simp [hp, Phase.needsN])
  simp only [stepFastpath, hP, hN]
  exact sameLive_withOddModulus fun p => sameLive_complete h _ _

theorem sameLive_stepGsZsearch (h : SameLive a b) (hp : a.ph = .gsZsearch) :
    SameLiveOutcome (stepGsZsearch a) (stepGsZsearch b) := by
  obtain ⟨hA, hB, hP⟩ := h.latched (by simp [hp])
  have hN := h.n (by simp [hp, Phase.needsN])
  have hZ := h.z (by simp [hp, Phase.needsZ])
  have hpb : b.ph = .gsZsearch := h.ph ▸ hp
  simp only [stepGsZsearch, hP, hZ]
  refine sameLive_withOddModulus fun p => ?_
  split
  · refine sameLive_withinWidth fun z => ?_
    constructor <;> simp [h.opa, h.opb, h.opm, h.res, h.busy, h.code, h.inbox, h.replies, hA, hB,
      hN, hp, hpb]
  · constructor <;> simp [h.opa, h.opb, h.opm, h.res, h.busy, h.code, h.inbox, h.replies, hA, hB,
      hN]

theorem sameLive_stepGsFactor (h : SameLive a b) (hp : a.ph = .gsFactor) :
    SameLiveOutcome (stepGsFactor a) (stepGsFactor b) := by
  obtain ⟨hA, hB, hP⟩ := h.latched (by simp [hp])
  have hN := h.n (by simp [hp, Phase.needsN])
  have hZ := h.z (by simp [hp, Phase.needsZ])
  simp only [stepGsFactor, hP]
  refine sameLive_withOddModulus fun p => ?_
  constructor <;> simp [h.opa, h.opb, h.opm, h.res, h.busy, h.code, h.inbox, h.replies, hA, hB,
    hN, hZ]

theorem sameLive_stepGsInitvars (h : SameLive a b) (hp : a.ph = .gsInitvars) :
    SameLiveOutcome (stepGsInitvars a) (stepGsInitvars b) := by
  obtain ⟨hA, hB, hP⟩ := h.latched (by simp [hp])
  have hN := h.n (by simp [hp, Phase.needsN])
  have hZ := h.z (by simp [hp, Phase.needsZ])
  obtain ⟨hS, hQ⟩ := h.sq hp
  simp only [stepGsInitvars, hP, hN, hZ, hS, hQ]
  refine sameLive_withOddModulus fun p => ?_
  constructor <;> simp [h.opa, h.opb, h.opm, h.res, h.busy, h.code, h.inbox, h.replies, hA, hB, hP,
    Phase.needsN, Phase.needsZ]

theorem sameLive_stepCorrLoop (h : SameLive a b) (hp : a.ph = .corrLoop) :
    SameLiveOutcome (stepCorrLoop a) (stepCorrLoop b) := by
  obtain ⟨hA, hB, hP⟩ := h.latched (by simp [hp])
  obtain ⟨hC, hR, hT, hM⟩ := h.search hp
  have hpb : b.ph = .corrLoop := h.ph ▸ hp
  have hsearch : searchOf a = searchOf b := by simp [searchOf, hC, hR, hT, hM]
  simp only [stepCorrLoop, hP, hR, hT, hM, hsearch]
  refine sameLive_withOddModulus fun p => ?_
  split
  · exact sameLive_complete h _ _
  · cases leastI b.wT b.wM p with
    | none => exact sameLive_complete h _ _
    | some i =>
      dsimp only
      split
      · constructor <;> simp [h.opa, h.opb, h.opm, h.res, h.busy, h.code, h.inbox, h.replies, hA,
          hB, hP, hp, hpb, Phase.needsN, Phase.needsZ]
      · rfl

/-- A turn of the engine takes states that agree on the live registers to such states, or to the same
stop (10_state.md R31). -/
theorem sameLive_engineStep (h : SameLive a b) :
    SameLiveOutcome (engineStep a) (engineStep b) := by
  cases hb : b.busy with
  | false =>
    rw [engineStep_idle hb, engineStep_idle (h.busy.trans hb)]
    exact h
  | true =>
    rw [engineStep_busy hb, engineStep_busy (h.busy.trans hb)]
    cases hp : a.ph <;> simp only [phaseStep, ← h.ph, hp]
    case idle => exact h
    case pmExec => exact sameLive_stepPmExec h hp
    case lgExec => exact sameLive_stepLgExec h hp
    case init => exact sameLive_stepInit h hp
    case dispatch => exact sameLive_stepDispatch h hp
    case fastpath => exact sameLive_stepFastpath h hp
    case gsZsearch => exact sameLive_stepGsZsearch h hp
    case gsFactor => exact sameLive_stepGsFactor h hp
    case gsInitvars => exact sameLive_stepGsInitvars h hp
    case corrLoop => exact sameLive_stepCorrLoop h hp

/-- Outcomes that agree so are of one kind. -/
theorem sameLiveOutcome_cases {x y : Host.Outcome State Fault Refusal}
    (h : SameLiveOutcome x y) :
    (∃ a b, x = .next a ∧ y = .next b ∧ SameLive a b) ∨ (∃ f, x = .fault f ∧ y = .fault f) ∨
      ∃ r, x = .refused r ∧ y = .refused r := by
  cases x <;> cases y <;> simp_all [SameLiveOutcome]

theorem sameLive_engineRun (h : SameLive a b) (k : Nat) :
    SameLiveOutcome (engineRun k a) (engineRun k b) := by
  induction k generalizing a b with
  | zero => exact h
  | succ k ih =>
    simp only [engineRun]
    obtain ⟨a', b', ha, hb, h'⟩ | ⟨f, ha, hb⟩ | ⟨r, ha, hb⟩ :=
      sameLiveOutcome_cases (sameLive_engineStep h)
    · rw [ha, hb]; exact ih h'
    · rw [ha, hb]; rfl
    · rw [ha, hb]; rfl

end

/-! ### Acceptance -/

/-- The phase in which a command starts (30_encoding.md R75). -/
def firstPhase : Instr → Phase
  | .powmod => .pmExec
  | .legendre => .lgExec
  | .sqrtmod => .init

/-- The fault a command's boundary check raises for a modulus, if any (40_pow_mod.md R95,
41_legendre.md R112, 42_sqrt_mod.md R126). -/
def boundaryFault (i : Instr) (p : Word) : Option Code :=
  match i with
  | .powmod => if p = 0#64 then some .errModzero else none
  | .legendre | .sqrtmod => if badModulus p then some .errBadp else none

/-- The state in which an idle engine is left by the issue of a command (30_encoding.md R73). -/
def acceptance (i : Instr) (s : State) : State :=
  match boundaryFault i s.opm with
  | some c => raiseFault c (latch i s)
  | none => startPhase (firstPhase i) (latch i s)

theorem exec_idle {s : State} (h : s.busy = false) (i : Instr) :
    exec i s = .next (acceptance i s) := by
  cases i with
  | powmod =>
    by_cases hm : s.opm = 0#64 <;>
      simp [exec, execPowmod, acceptance, boundaryFault, firstPhase, h, hm]
  | legendre =>
    cases hm : badModulus s.opm <;>
      simp [exec, execLegendre, acceptance, boundaryFault, firstPhase, h, hm]
  | sqrtmod =>
    cases hm : badModulus s.opm <;>
      simp [exec, execSqrtmod, acceptance, boundaryFault, firstPhase, h, hm]

/-- What the engine sees of an accepted command is the command and its operands. -/
theorem sameLive_acceptance {s₁ s₂ : State} (i : Instr) (ha : s₁.opa = s₂.opa)
    (hb : s₁.opb = s₂.opb) (hm : s₁.opm = s₂.opm) :
    SameLive (engineView (acceptance i s₁)) (engineView (acceptance i s₂)) := by
  unfold acceptance
  rw [hm]
  cases boundaryFault i s₂.opm with
  | some c => constructor <;> simp [engineView, Phase.needsN, Phase.needsZ]
  | none =>
    cases i <;> constructor <;>
      simp [engineView, firstPhase, Phase.needsN, Phase.needsZ, ha, hb, hm]

/-! ### Completion -/

/-- A schedule that completes a command ends, for the engine, where any larger number of engine turns
ends: an idle engine lets the rest pass. -/
theorem engineRun_of_commandRun {es : List Event} {s u : State} (hr : .reset ∉ es)
    (h : commandRun es s = .next u) (hu : u.busy = false) (k : Nat) :
    engineRun (engineTurns es + k) (engineView s) = .next (engineView u) := by
  have hturns : engineRun (engineTurns es) (engineView s) = .next (engineView u) := by
    rw [engineRun_engineView, ← viewOutcome_commandRun hr, h, viewOutcome_next]
  simp only [engineRun_add, hturns]
  exact engineRun_idle (s := engineView u) hu k

/-- Settles O18: both schedules run the engine, from states that agree on the live registers, to
completion. -/
theorem outcomeIsAFunctionOfTheOperands : Obligations.OutcomeIsAFunctionOfTheOperands := by
  unfold Obligations.OutcomeIsAFunctionOfTheOperands
  intro i s₁ s₂ t₁ t₂ u₁ u₂ es₁ es₂ hs₁ hs₂ ha hb hm ht₁ ht₂ hr₁ hr₂ hrun₁ hrun₂ hu₁ hu₂
  rw [exec_idle hs₁] at ht₁
  rw [exec_idle hs₂] at ht₂
  cases ht₁
  cases ht₂
  have hsame := sameLive_engineRun (sameLive_acceptance i ha hb hm)
    (engineTurns es₁ + engineTurns es₂)
  rw [engineRun_of_commandRun hr₁ hrun₁ hu₁, Nat.add_comm,
    engineRun_of_commandRun hr₂ hrun₂ hu₂] at hsame
  have hviews : SameLive (engineView u₁) (engineView u₂) := hsame
  exact ⟨hviews.code, hviews.res⟩

/-! ### The frame of an engine step -/

/-- Settles O19, phase by phase: an idle turn, then the phases in the order of R24. -/
theorem engineStepsKeepTheirFrame : Obligations.EngineStepsKeepTheirFrame := by
  unfold Obligations.EngineStepsKeepTheirFrame
  intro s t h
  obtain ⟨-, rfl⟩ | ⟨-, ⟨-, rfl⟩ | ⟨hp, h⟩ | ⟨hp, h⟩ | ⟨hp, h⟩ | ⟨hp, h⟩ | ⟨hp, h⟩ | ⟨hp, h⟩ |
    ⟨hp, h⟩ | ⟨hp, h⟩ | ⟨hp, h⟩⟩ := engineStep_cases h
  · simp
  · simp
  · obtain ⟨_, -, rfl⟩ := stepPmExec_cases h
    simp
  · obtain ⟨_, -, rfl⟩ := stepLgExec_cases h
    simp
  · obtain ⟨_, -, ⟨-, rfl⟩ | ⟨-, rfl⟩⟩ := stepInit_cases h <;> simp [hp]
  · obtain ⟨_, -, ⟨-, rfl⟩ | ⟨-, -, rfl⟩ | ⟨-, -, rfl⟩⟩ := stepDispatch_cases h <;> simp [hp]
  · obtain ⟨_, -, rfl⟩ := stepFastpath_cases h
    simp
  · obtain ⟨_, -, ⟨-, -, rfl⟩ | ⟨-, rfl⟩⟩ := stepGsZsearch_cases h <;> simp [hp]
  · obtain ⟨_, -, rfl⟩ := stepGsFactor_cases h
    simp [hp]
  · obtain ⟨_, -, rfl⟩ := stepGsInitvars_cases h
    simp [hp]
  · obtain ⟨_, -, ⟨-, rfl⟩ | ⟨-, -, rfl⟩ | ⟨-, _, -, -, rfl⟩⟩ := stepCorrLoop_cases h <;> simp [hp]

end Sys2Proof.Machine
end

section
/-! SUPPORT. The integer functions as exact natural numbers: `PowMod` is the power (40_pow_mod.md R92),
`Legendre` the literal value (41_legendre.md R110), `Factor2` the split (42_sqrt_mod.md R121). -/

namespace Sys2Proof.Machine

/-! ### PowMod -/

@[simp] theorem powRound_bb_toNat (m : Modulus) (x : PowVars) :
    (powRound m x).bb.toNat = x.bb.toNat * x.bb.toNat % m.val.toNat :=
  mulMod_toNat _ _ m

/-- Each round keeps `acc * bb^e` modulo `m` (40_pow_mod.md R92): the lowest bit of `e` goes into
`acc`, the others into the square of `bb`. -/
theorem powRound_modEq (m : Modulus) (x : PowVars) :
    (powRound m x).acc.toNat * (powRound m x).bb.toNat ^ (powRound m x).e.toNat ≡
      x.acc.toNat * x.bb.toNat ^ x.e.toNat [MOD m.val.toNat] := by
  have hbb : (powRound m x).bb.toNat ^ (powRound m x).e.toNat ≡
      x.bb.toNat ^ (2 * (x.e.toNat / 2)) [MOD m.val.toNat] := by
    rw [powRound_bb_toNat, powRound_e_toNat, pow_mul, sq]
    exact (Nat.mod_modEq _ _).pow _
  by_cases hodd : x.e.toNat % 2 = 1
  · have hacc : (powRound m x).acc.toNat ≡ x.acc.toNat * x.bb.toNat [MOD m.val.toNat] := by
      simp only [powRound, if_pos hodd, mulMod_toNat]
      exact Nat.mod_modEq _ _
    have he : x.e.toNat = 2 * (x.e.toNat / 2) + 1 := by omega
    calc _ ≡ x.acc.toNat * x.bb.toNat * x.bb.toNat ^ (2 * (x.e.toNat / 2)) [MOD m.val.toNat] :=
          hacc.mul hbb
      _ = x.acc.toNat * x.bb.toNat ^ x.e.toNat := by
          conv_rhs => rw [he, pow_succ']
          rw [mul_assoc]
  · have hacc : (powRound m x).acc = x.acc := if_neg hodd
    have he : 2 * (x.e.toNat / 2) = x.e.toNat := by omega
    rw [hacc]
    rw [he] at hbb
    exact hbb.mul_left _

theorem powRound_acc_lt {m : Modulus} {x : PowVars} (h : x.acc.toNat < m.val.toNat) :
    (powRound m x).acc.toNat < m.val.toNat := by
  simp only [powRound]
  split
  · exact mulMod_lt _ _ m
  · exact h

theorem powLoop_acc_lt {m : Modulus} {x : PowVars} (h : x.acc.toNat < m.val.toNat) (k : Nat) :
    (powLoop m k x).acc.toNat < m.val.toNat := by
  induction k generalizing x with
  | zero => exact h
  | succ k ih =>
    simp only [powLoop]
    split
    · exact h
    · exact ih (powRound_acc_lt h)

/-- With a round for each bit of `e`, the loop ends with `acc ≡ acc * bb^e`. -/
theorem powLoop_acc_modEq {m : Modulus} {k : Nat} {x : PowVars} (h : x.e.toNat < 2 ^ k) :
    (powLoop m k x).acc.toNat ≡ x.acc.toNat * x.bb.toNat ^ x.e.toNat [MOD m.val.toNat] := by
  induction k generalizing x with
  | zero =>
    have he : x.e.toNat = 0 := by omega
    simp [powLoop, he, Nat.ModEq.refl]
  | succ k ih =>
    simp only [powLoop]
    split
    case isTrue he => simp [he, Nat.ModEq.refl]
    case isFalse =>
      have hlt : (powRound m x).e.toNat < 2 ^ k := by rw [powRound_e_toNat]; omega
      exact (ih hlt).trans (powRound_modEq m x)

theorem powMod_lt (b e : Word) (m : Modulus) : (powMod b e m).toNat < m.val.toNat :=
  powLoop_acc_lt (reduce_lt 1#64 m) Config.W

/-- `PowMod` is the exact power, reduced (40_pow_mod.md R92). -/
@[simp] theorem powMod_toNat (b e : Word) (m : Modulus) :
    (powMod b e m).toNat = b.toNat ^ e.toNat % m.val.toNat := by
  have hstart : (reduce 1#64 m).toNat * (reduce b m).toNat ^ e.toNat ≡
      1 * b.toNat ^ e.toNat [MOD m.val.toNat] := by
    rw [reduce_toNat, reduce_toNat]
    exact (Nat.mod_modEq _ _).mul ((Nat.mod_modEq _ _).pow _)
  have hloop : (powMod b e m).toNat ≡ b.toNat ^ e.toNat [MOD m.val.toNat] := by
    rw [one_mul] at hstart
    exact (powLoop_acc_modEq (x := powStart b e m) e.isLt).trans hstart
  rw [← hloop, Nat.mod_eq_of_lt (powMod_lt b e m)]

/-! ### Legendre -/

@[simp] theorem legendreValue_toNat (n : Word) (p : OddModulus) :
    (legendreValue n p).toNat = n.toNat ^ ((p.val.toNat - 1) / 2) % p.val.toNat := by
  rw [legendreValue, powMod_toNat, reduce_toNat, halfPred_toNat, OddModulus.toModulus_val,
    ← Nat.pow_mod]

theorem legendreValue_eq_one_iff (n : Word) (p : OddModulus) :
    legendreValue n p = 1#64 ↔ n.toNat ^ ((p.val.toNat - 1) / 2) % p.val.toNat = 1 := by
  rw [word_eq_iff_toNat, legendreValue_toNat]
  rfl

/-- The modulus itself has Legendre value 0, so a search that starts at or below it stops there
(42_sqrt_mod.md R138). -/
theorem pow_halfPred_mod_self (p : OddModulus) :
    p.val.toNat ^ ((p.val.toNat - 1) / 2) % p.val.toNat = 0 := by
  have h3 := p.three_le
  exact Nat.mod_eq_zero_of_dvd (dvd_pow_self _ (by omega))

/-! ### Factor2 -/

/-- With a round for each bit of `q`, the loop removes every factor 2 and counts them. -/
theorem factorLoop_split {k s : Nat} {q : Word} (h0 : q.toNat ≠ 0) (hk : q.toNat < 2 ^ k) :
    ∃ e, e < k ∧ (factorLoop k s q).1 = s + e ∧ q.toNat = 2 ^ e * (factorLoop k s q).2.toNat ∧
      (factorLoop k s q).2.toNat % 2 = 1 := by
  induction k generalizing s q with
  | zero => omega
  | succ k ih =>
    simp only [factorLoop]
    split
    case isTrue hodd => exact ⟨0, by omega, rfl, by simp, hodd⟩
    case isFalse heven =>
      have hhalf : (narrow (q.toNat / 2)).toNat = q.toNat / 2 :=
        narrow_toNat (Nat.lt_of_le_of_lt (Nat.div_le_self _ _) q.isLt)
      obtain ⟨e, he, hs, hq, hodd⟩ :=
        ih (s := s + 1) (q := narrow (q.toNat / 2)) (by omega) (by omega)
      refine ⟨e + 1, by omega, by omega, ?_, hodd⟩
      rw [hhalf] at hq
      rw [pow_succ', mul_assoc, ← hq]
      omega

/-- `Factor2` gives `v = 2^s * q` with `q` odd and `s ≤ W - 1` (42_sqrt_mod.md R121). -/
theorem factor2_split (v : Word) (h : v.toNat ≠ 0) :
    v.toNat = 2 ^ (factor2 v h).1.toNat * (factor2 v h).2.toNat ∧
      (factor2 v h).2.toNat % 2 = 1 ∧ (factor2 v h).1.toNat ≤ 63 := by
  obtain ⟨e, he, hs, hq, hodd⟩ := factorLoop_split (s := 0) (k := Config.W) h v.isLt
  have hfst : (factor2 v h).1.toNat = e := by
    simp only [factor2, hs, Nat.zero_add]
    exact narrow_toNat (Nat.lt_trans he (by decide))
  rw [hfst]
  exact ⟨hq, hodd, Nat.le_of_lt_succ he⟩

/-- A power of 2 times an odd number is a multiple of 4 only with two factors 2. -/
theorem two_le_of_mod_four_eq_zero {v e q : Nat} (h4 : v % 4 = 0) (h : v = 2 ^ e * q)
    (hq : q % 2 = 1) : 2 ≤ e := by
  by_contra hlt
  obtain rfl | rfl : e = 0 ∨ e = 1 := by omega
  · omega
  · omega

end Sys2Proof.Machine
end

section
/-! SUPPORT. The statements of 10_state.md on single events: what a command issue answers, what each
event does to the registers the host sees, and that a host cannot see the hidden ones. -/

namespace Sys2Proof.Machine

variable {s t : State}

/-! ### The command issue -/

/-- A write to CMD is dropped, rejected, or the acceptance of a command (30_encoding.md R73). -/
theorem issueCommand_cases (v : Word) (s : State) :
    (s.busy = true ∧ issueCommand v s = .next s) ∨
    (s.busy = false ∧ issueCommand v s = .next (complete .errIllegal 0#64 s)) ∨
    (s.busy = false ∧ ∃ i, decode v = .ok i ∧ issueCommand v s = .next (acceptance i s)) := by
  cases hb : s.busy with
  | true => exact .inl ⟨rfl, issueCommand_busy v hb⟩
  | false =>
    cases hd : decode v with
    | error e => exact .inr (.inl ⟨rfl, issueCommand_illegal hb hd⟩)
    | ok i => exact .inr (.inr ⟨rfl, i, rfl, (issueCommand_legal hb hd).trans (exec_idle hb i)⟩)

/-- An issued command has failed its boundary check or is busy in its first phase. -/
theorem acceptance_cases (i : Instr) (s : State) :
    (∃ c, acceptance i s = raiseFault c (latch i s)) ∨
    (boundaryFault i s.opm = none ∧ acceptance i s = startPhase (firstPhase i) (latch i s)) := by
  unfold acceptance
  cases h : boundaryFault i s.opm with
  | some c => exact .inl ⟨c, rfl⟩
  | none => exact .inr ⟨rfl, rfl⟩

/-- Acceptance changes nothing of the host's own: operand registers, events to come, replies. -/
theorem acceptance_host (i : Instr) (s : State) :
    (acceptance i s).opa = s.opa ∧ (acceptance i s).opb = s.opb ∧
      (acceptance i s).opm = s.opm ∧ (acceptance i s).inbox = s.inbox ∧
      (acceptance i s).replies = s.replies := by
  obtain ⟨c, h⟩ | ⟨-, h⟩ := acceptance_cases i s <;> simp [h]

/-- Issuing a command leaves the operand registers alone. -/
theorem issueCommand_operands {v : Word} (h : issueCommand v s = .next t) :
    t.opa = s.opa ∧ t.opb = s.opb ∧ t.opm = s.opm := by
  obtain ⟨-, hv⟩ | ⟨-, hv⟩ | ⟨-, i, -, hv⟩ := issueCommand_cases v s <;> cases hv.symm.trans h
  · simp
  · simp
  · obtain ⟨ha, hb, hm, -⟩ := acceptance_host i s
    exact ⟨ha, hb, hm⟩

/-! ### Reset -/

/-- Settles O4: with OPM 0 the acceptance of each command is its boundary fault. -/
theorem resetLeavesTheStatedValues : Obligations.ResetLeavesTheStatedValues := by
  unfold Obligations.ResetLeavesTheStatedValues
  exact ⟨rfl, rfl, rfl, rfl, rfl, rfl, rfl, rfl, ⟨_, exec_idle rfl .powmod, rfl, rfl⟩,
    ⟨_, exec_idle rfl .legendre, rfl, rfl⟩, ⟨_, exec_idle rfl .sqrtmod, rfl, rfl⟩⟩

/-! ### STATUS -/

theorem hostReadValue_status (s : State) : hostReadValue 4#3 s = statusWord s := rfl

theorem hostReadValue_res (s : State) : hostReadValue 5#3 s = s.res := rfl

/-- STATUS shows `busy` and `code` alone (10_state.md R27). -/
theorem statusWord_congr (hb : t.busy = s.busy) (hc : t.code = s.code) :
    statusWord t = statusWord s := by
  simp only [statusWord, hb, hc]

/-- A host write to STATUS has no effect (20_memory.md R53). -/
theorem runEvent_write_status (v : Word) (s : State) :
    runEvent (.hostWrite 4#3 v) s = .next s := rfl

/-- Settles O13: a busy engine has code NONE (R26), which leaves eight pairs of `busy` and `code`, each
with one STATUS word. -/
theorem statusReadsAsLaidOut : Obligations.StatusReadsAsLaidOut := by
  unfold Obligations.StatusReadsAsLaidOut
  intro s hinv
  simp only [hostReadValue_status, runEvent_write_status, statusWord]
  have hcode := hinv.busy_code
  cases hb : s.busy with
  | true => simp [hcode hb, busyBit, doneBit, codeNumber]
  | false => cases s.code <;> simp [busyBit, doneBit, codeNumber]

/-! ### The operand registers -/

/-- A host write stores the whole value to the operand register it names and leaves the others
(20_memory.md R53). -/
theorem runEvent_write_operands {i : RegIndex} {v : Word}
    (h : runEvent (.hostWrite i v) s = .next t) :
    t.opa = (if i.toNat = 0 then v else s.opa) ∧ t.opb = (if i.toNat = 1 then v else s.opb) ∧
      t.opm = (if i.toNat = 2 then v else s.opm) := by
  obtain ⟨rfl, hw⟩ | ⟨rfl, hw⟩ | ⟨rfl, hw⟩ | ⟨rfl, hw⟩ | ⟨hi, hw⟩ :=
    runEvent_write_cases i v s <;> rw [hw] at h
  · cases h; simp
  · cases h; simp
  · cases h; simp
  · simpa using issueCommand_operands h
  · cases h
    have h0 : i.toNat ≠ 0 := by omega
    have h1 : i.toNat ≠ 1 := by omega
    have h2 : i.toNat ≠ 2 := by omega
    simp [h0, h1, h2]

/-- States that look alike through `engineView` differ only in what it hides. -/
theorem eq_of_engineView_eq (h : engineView s = engineView t) :
    s = { t with opa := s.opa, opb := s.opb, opm := s.opm, inbox := s.inbox,
                 replies := s.replies } := by
  calc s = { engineView s with opa := s.opa, opb := s.opb, opm := s.opm, inbox := s.inbox,
                               replies := s.replies } := rfl
    _ = _ := by rw [h]; rfl

/-- The engine's step does not depend on the operand registers: with others it is the same step, and
keeps them. -/
theorem engineStep_withOperands (a b m : Word) (h : engineStep s = .next t) :
    engineStep { s with opa := a, opb := b, opm := m } =
      .next { t with opa := a, opb := b, opm := m } := by
  have hview : viewOutcome (engineStep { s with opa := a, opb := b, opm := m }) =
      .next (engineView t) := by
    rw [← engineStep_engineView, ← viewOutcome_next, ← h, ← engineStep_engineView]
    rfl
  obtain ⟨⟨-, -, -, -, -, -, -, hinbox, hreplies⟩, -⟩ := engineStepsKeepTheirFrame s t h
  cases hu : engineStep { s with opa := a, opb := b, opm := m } with
  | next u =>
    rw [hu, viewOutcome_next, Host.Outcome.next.injEq] at hview
    obtain ⟨⟨ha, hb, hm, -, -, -, -, hinbox', hreplies'⟩, -⟩ := engineStepsKeepTheirFrame _ u hu
    rw [eq_of_engineView_eq hview, ha, hb, hm, hinbox', hreplies', hinbox, hreplies]
  | fault f => rw [hu] at hview; cases hview
  | refused r => rw [hu] at hview; cases hview

/-- Settles O14, by the kind of the event. -/
theorem operandRegistersArePlainStorage : Obligations.OperandRegistersArePlainStorage := by
  unfold Obligations.OperandRegistersArePlainStorage
  refine ⟨fun s t e h => ?_, fun _ => ⟨rfl, rfl, rfl⟩,
    fun _ _ a b m h => engineStep_withOperands a b m h⟩
  cases e with
  | hostRead i => cases h; exact ⟨rfl, rfl, rfl⟩
  | hostWrite i v => exact runEvent_write_operands h
  | engine =>
    obtain ⟨⟨ha, hb, hm, -⟩, -⟩ := engineStepsKeepTheirFrame s t h
    exact ⟨ha, hb, hm⟩
  | reset => cases h; exact ⟨rfl, rfl, rfl⟩

/-! ### The result of a completed command -/

/-- On an idle engine an event that issues nothing leaves the outcome as it is (20_memory.md R60). -/
theorem runEvent_idle_of_issuesNothing {e : Event} (hb : s.busy = false)
    (he : e.issuesNothing = true) :
    ∃ t, runEvent e s = .next t ∧ t.busy = false ∧ t.code = s.code ∧ t.res = s.res := by
  cases e with
  | hostRead i => exact ⟨_, runEvent_read i s, hb, rfl, rfl⟩
  | engine => exact ⟨s, engineStep_idle hb, hb, rfl, rfl⟩
  | reset => cases he
  | hostWrite i v =>
    obtain ⟨-, h⟩ | ⟨-, h⟩ | ⟨-, h⟩ | ⟨rfl, -⟩ | ⟨-, h⟩ := runEvent_write_cases i v s
    · exact ⟨_, h, hb, rfl, rfl⟩
    · exact ⟨_, h, hb, rfl, rfl⟩
    · exact ⟨_, h, hb, rfl, rfl⟩
    · cases he
    · exact ⟨s, h, hb, rfl, rfl⟩

theorem eventRun_idle_of_issuesNothing {es : List Event} (hb : s.busy = false)
    (hes : ∀ e ∈ es, e.issuesNothing = true) :
    ∃ t, eventRun es s = .next t ∧ t.busy = false ∧ t.code = s.code ∧ t.res = s.res := by
  induction es generalizing s with
  | nil => exact ⟨s, rfl, hb, rfl, rfl⟩
  | cons e es ih =>
    obtain ⟨he, hes⟩ := List.forall_mem_cons.1 hes
    obtain ⟨u, hu, hub, huc, hur⟩ := runEvent_idle_of_issuesNothing hb he
    obtain ⟨t, ht, htb, htc, htr⟩ := ih hub hes
    exact ⟨t, (eventRun_cons hu).trans ht, htb, htc.trans huc, htr.trans hur⟩

/-- Settles O15: what STATUS and RES read is `busy`, `code` and RES. -/
theorem resultStaysUntilTheNextIssue : Obligations.ResultStaysUntilTheNextIssue := by
  unfold Obligations.ResultStaysUntilTheNextIssue
  intro es s hb hes
  obtain ⟨t, ht, htb, htc, htr⟩ := eventRun_idle_of_issuesNothing hb hes
  exact ⟨t, ht, htb, htc, htr, statusWord_congr (htb.trans hb.symm) htc, htr⟩

/-! ### A running command and the host -/

/-- Settles O16. -/
theorem runningCommandIgnoresTheHost : Obligations.RunningCommandIgnoresTheHost := by
  unfold Obligations.RunningCommandIgnoresTheHost
  exact fun _ s hr => viewOutcome_commandRun hr s

/-! ### The hidden registers and the host -/

section

variable {a b : State}

/-- What a host can read is not hidden (10_state.md R31). -/
theorem sameLive_hostReadValue (h : SameLive a b) (i : RegIndex) :
    hostReadValue i a = hostReadValue i b := by
  have hstatus : statusWord a = statusWord b := statusWord_congr h.busy h.code
  unfold hostReadValue
  cases regOfIndex i with
  | none => rfl
  | some r => cases r <;> simp [readReg, h.opa, h.opb, h.opm, h.res, hstatus]

theorem sameLive_reply (h : SameLive a b) (v : Word) : SameLive (reply v a) (reply v b) :=
  { h with replies := congrArg (v :: ·) h.replies }

/-- Reset leaves no hidden register live. -/
theorem sameLive_resetEngine (h : SameLive a b) : SameLive (resetEngine a) (resetEngine b) := by
  constructor <;> simp [h.inbox, h.replies, Phase.needsN, Phase.needsZ]

/-- States that agree on the live registers the engine sees, and on what only the host sees. -/
theorem sameLive_of_engineView (h : SameLive (engineView a) (engineView b)) (ha : a.opa = b.opa)
    (hb : a.opb = b.opb) (hm : a.opm = b.opm) (hi : a.inbox = b.inbox)
    (hr : a.replies = b.replies) : SameLive a b :=
  { h with opa := ha, opb := hb, opm := hm, inbox := hi, replies := hr }

/-- Acceptance latches the operand registers, so it depends on nothing hidden (10_state.md R29). -/
theorem sameLive_acceptance_of_sameLive (h : SameLive a b) (i : Instr) :
    SameLive (acceptance i a) (acceptance i b) := by
  obtain ⟨haa, hab, ham, hai, har⟩ := acceptance_host i a
  obtain ⟨hba, hbb, hbm, hbi, hbr⟩ := acceptance_host i b
  apply sameLive_of_engineView (sameLive_acceptance i h.opa h.opb h.opm)
  · rw [haa, hba, h.opa]
  · rw [hab, hbb, h.opb]
  · rw [ham, hbm, h.opm]
  · rw [hai, hbi, h.inbox]
  · rw [har, hbr, h.replies]

theorem sameLive_issueCommand (h : SameLive a b) (v : Word) :
    SameLiveOutcome (issueCommand v a) (issueCommand v b) := by
  cases hb : a.busy with
  | true =>
    rw [issueCommand_busy v hb, issueCommand_busy v (h.busy.symm.trans hb)]
    exact h
  | false =>
    have hb' : b.busy = false := h.busy.symm.trans hb
    cases hd : decode v with
    | error e =>
      rw [issueCommand_illegal hb hd, issueCommand_illegal hb' hd]
      exact sameLive_complete h _ _
    | ok i =>
      rw [issueCommand_legal hb hd, issueCommand_legal hb' hd, exec_idle hb, exec_idle hb']
      exact sameLive_acceptance_of_sameLive h i

theorem sameLive_runEvent (h : SameLive a b) (e : Event) :
    SameLiveOutcome (runEvent e a) (runEvent e b) := by
  cases e with
  | hostRead i =>
    rw [runEvent_read, runEvent_read, sameLive_hostReadValue h]
    exact sameLive_reply h _
  | engine => exact sameLive_engineStep h
  | reset => exact sameLive_resetEngine h
  | hostWrite i v =>
    change SameLiveOutcome (hostWrite i v a) (hostWrite i v b)
    unfold hostWrite
    cases regOfIndex i with
    | none => exact h
    | some r =>
      cases r
      case opa => exact { h with opa := rfl }
      case opb => exact { h with opb := rfl }
      case opm => exact { h with opm := rfl }
      case cmd => exact sameLive_issueCommand h v
      case status => exact h
      case res => exact h

/-- Settles O17: the two states have the same next event. -/
theorem hiddenRegistersAreUnobservable : Obligations.HiddenRegistersAreUnobservable := by
  unfold Obligations.HiddenRegistersAreUnobservable
  intro a b h
  cases ha : a.inbox with
  | nil =>
    rw [step_nil ha, step_nil (h.inbox.symm.trans ha)]
    exact sameLive_engineStep h
  | cons e es =>
    rw [step_cons ha, step_cons (h.inbox.symm.trans ha)]
    have htaken : SameLive { a with inbox := es } { b with inbox := es } :=
      { h with inbox := rfl }
    exact sameLive_runEvent htaken e

end

end Sys2Proof.Machine
end

section
/-! SUPPORT. The invariant: the reset state meets it, and every event keeps it. An idle state meets it
by its RES and `code` alone; each phase has its own lemma, which shows what the phase establishes. -/

namespace Sys2Proof.Machine

variable {s t : State}

/-! ### Idle states, acceptance and host transactions -/

/-- In IDLE the invariant says nothing of the hidden registers. -/
theorem inv_of_idle (hb : s.busy = false) (hp : s.ph = .idle) (hr : s.code ≠ .ok → s.res = 0#64) :
    Inv s := by
  constructor
  case res_zero => exact hr
  all_goals simp [hb, hp, Phase.oddModulus, Phase.afterInit, Phase.afterDispatch, Phase.general,
    Phase.afterSearch, Phase.afterFactor]

theorem inv_complete (c : Code) (v : Word) (s : State) (h : c ≠ .ok → v = 0#64) :
    Inv (complete c v s) :=
  inv_of_idle rfl rfl h

theorem inv_raiseFault (c : Code) (s : State) : Inv (raiseFault c s) :=
  inv_complete c 0#64 s fun _ => rfl

/-- Settles O6. -/
theorem resetMeetsTheInvariant : Obligations.ResetMeetsTheInvariant := by
  unfold Obligations.ResetMeetsTheInvariant
  exact inv_of_idle rfl rfl fun _ => rfl

theorem inv_resetEngine (s : State) : Inv (resetEngine s) :=
  inv_of_idle rfl rfl fun _ => rfl

/-- The boundary check leaves a modulus in the domain of the first phase (40_pow_mod.md R95,
41_legendre.md R112, 42_sqrt_mod.md R126). -/
theorem inv_startPhase {i : Instr} (hc : boundaryFault i s.opm = none) :
    Inv (startPhase (firstPhase i) (latch i s)) := by
  cases i with
  | powmod =>
    have hpos : 0 < s.opm.toNat := by
      simpa [boundaryFault, word_eq_iff_toNat, Nat.pos_iff_ne_zero] using hc
    constructor <;> simp [firstPhase, hpos, opcode, phaseOpcode, Phase.oddModulus, Phase.afterInit,
      Phase.afterDispatch, Phase.general, Phase.afterSearch, Phase.afterFactor]
  | legendre | sqrtmod =>
    have hgood : s.opm.toNat % 2 = 1 ∧ 3 ≤ s.opm.toNat := by
      simpa [boundaryFault, badModulus_eq_false_iff] using hc
    constructor <;> simp [firstPhase, hgood, opcode, phaseOpcode, Phase.afterInit,
      Phase.afterDispatch, Phase.general, Phase.afterSearch, Phase.afterFactor]

theorem inv_acceptance (i : Instr) (s : State) : Inv (acceptance i s) := by
  obtain ⟨c, h⟩ | ⟨hc, h⟩ := acceptance_cases i s <;> rw [h]
  · exact inv_raiseFault c _
  · exact inv_startPhase hc

theorem inv_issueCommand {v : Word} (h : Inv s) (ht : issueCommand v s = .next t) : Inv t := by
  obtain ⟨-, hv⟩ | ⟨-, hv⟩ | ⟨-, i, -, hv⟩ := issueCommand_cases v s <;> cases hv.symm.trans ht
  · exact h
  · exact inv_complete _ _ _ fun _ => rfl
  · exact inv_acceptance i s

theorem inv_hostWrite {i : RegIndex} {v : Word} (h : Inv s)
    (ht : runEvent (.hostWrite i v) s = .next t) : Inv t := by
  obtain ⟨-, hw⟩ | ⟨-, hw⟩ | ⟨-, hw⟩ | ⟨-, hw⟩ | ⟨-, hw⟩ := runEvent_write_cases i v s <;>
    rw [hw] at ht
  · cases ht; exact { h with }
  · cases ht; exact { h with }
  · cases ht; exact { h with }
  · exact inv_issueCommand h ht
  · cases ht; exact h

/-! ### The phases of SQRTMOD -/

/-- A phase of SQRTMOD runs with nothing delivered, its opcode latched and a modulus in its domain. -/
theorem Inv.sqrtmod (h : Inv s) (hb : s.busy = true) (hop : phaseOpcode s.ph = 0x03#8)
    (hodd : s.ph.oddModulus = true) :
    s.code = .none ∧ s.res = 0#64 ∧ s.wOp = 0x03#8 ∧ s.wP.toNat % 2 = 1 ∧ 3 ≤ s.wP.toNat := by
  have hcode := h.busy_code hb
  exact ⟨hcode, h.res_zero (by simp [hcode]), (h.op hb).trans hop, h.odd_modulus hodd⟩

theorem inv_stepInit (h : Inv s) (hb : s.busy = true) (hp : s.ph = .init)
    (ht : stepInit s = .next t) : Inv t := by
  obtain ⟨p, hpv, ⟨-, rfl⟩ | ⟨hn, rfl⟩⟩ := stepInit_cases ht
  · exact inv_complete _ _ _ fun _ => rfl
  · obtain ⟨hcode, hres, hop, hodd⟩ := h.sqrtmod hb (by rw [hp]; rfl) (by rw [hp]; rfl)
    have hpos : 0 < (reduce s.wA p.toModulus).toNat :=
      Nat.pos_of_ne_zero fun h0 => hn (BitVec.eq_of_toNat_eq h0)
    have hlt := reduce_lt s.wA p.toModulus
    rw [reduce_toNat, OddModulus.toModulus_val, hpv] at hpos hlt
    constructor <;> simp [hb, hcode, hres, hop, hodd, hpv, hpos, hlt, phaseOpcode,
      Phase.afterDispatch, Phase.general, Phase.afterSearch, Phase.afterFactor]

theorem inv_stepDispatch (h : Inv s) (hb : s.busy = true) (hp : s.ph = .dispatch)
    (ht : stepDispatch s = .next t) : Inv t := by
  obtain ⟨p, hpv, hcases⟩ := stepDispatch_cases ht
  simp only [ne_eq, legendreValue_eq_one_iff, hpv] at hcases
  obtain ⟨hcode, hres, hop, hodd, h3⟩ := h.sqrtmod hb (by rw [hp]; rfl) (by rw [hp]; rfl)
  have hn := h.n_range (by rw [hp]; rfl)
  obtain ⟨-, rfl⟩ | ⟨hl, hmod, rfl⟩ | ⟨hl, hmod, rfl⟩ := hcases
  · exact inv_complete _ _ _ fun _ => rfl
  · constructor
    case n_range => exact fun _ => hn
    all_goals simp [hb, hcode, hres, hop, hodd, h3, hl, hmod, phaseOpcode, Phase.general,
      Phase.afterSearch, Phase.afterFactor]
  · have hmod1 : s.wP.toNat % 4 = 1 := by omega
    constructor
    case n_range => exact fun _ => hn
    case z_range => exact fun _ => ⟨le_rfl, Nat.le_of_succ_le h3⟩
    case z_least => exact fun _ y hy h2 => absurd hy (Nat.not_lt_of_le h2)
    all_goals simp [hb, hcode, hres, hop, hodd, h3, hl, hmod1, phaseOpcode,
      Phase.afterSearch, Phase.afterFactor]

theorem inv_stepGsZsearch (h : Inv s) (hb : s.busy = true) (hp : s.ph = .gsZsearch)
    (ht : stepGsZsearch s = .next t) : Inv t := by
  obtain ⟨p, hpv, hcases⟩ := stepGsZsearch_cases ht
  simp only [ne_eq, legendreValue_eq_one_iff, hpv] at hcases
  have hgen : s.ph.general = true := by rw [hp]; rfl
  obtain ⟨hz2, hzp⟩ := h.z_range hgen
  obtain ⟨hl, hlt, rfl⟩ | ⟨hl, rfl⟩ := hcases
  · have hsucc : (narrow (s.wZ.toNat + 1)).toNat = s.wZ.toNat + 1 := narrow_toNat hlt
    have hne : s.wZ.toNat ≠ s.wP.toNat := by
      intro heq
      have hself := pow_halfPred_mod_self p
      rw [hpv] at hself
      rw [heq] at hl
      omega
    refine { h with z_range := ?_, z_least := ?_, z_nonresidue := ?_ } <;> simp only [hsucc]
    · omega
    · intro _ y hy hy2
      obtain hlt | rfl := Nat.lt_succ_iff_lt_or_eq.1 hy
      · exact h.z_least hgen y hlt hy2
      · exact hl
    · simp [hp, Phase.afterSearch]
  · obtain ⟨hcode, hres, hop, hodd⟩ := h.sqrtmod hb (by rw [hp]; rfl) (by rw [hp]; rfl)
    have hr := h.n_residue (by rw [hp]; rfl)
    constructor
    case n_range => exact fun _ => h.n_range (by rw [hp]; rfl)
    case z_least => exact fun _ => h.z_least hgen
    all_goals simp [hb, hcode, hres, hop, hodd, hr, hz2, hzp, hl, h.general_mod_four hgen,
      phaseOpcode, Phase.afterFactor]

theorem inv_stepGsFactor (h : Inv s) (hb : s.busy = true) (hp : s.ph = .gsFactor)
    (ht : stepGsFactor s = .next t) : Inv t := by
  obtain ⟨p, hpv, rfl⟩ := stepGsFactor_cases ht
  obtain ⟨hcode, hres, hop, hodd⟩ := h.sqrtmod hb (by rw [hp]; rfl) (by rw [hp]; rfl)
  have hgen : s.ph.general = true := by rw [hp]; rfl
  have hr := h.n_residue (by rw [hp]; rfl)
  have hmod := h.general_mod_four hgen
  obtain ⟨hsplit, hq, hs⟩ := factor2_split p.pred p.pred_ne_zero
  rw [p.pred_toNat, hpv] at hsplit
  have h2 := two_le_of_mod_four_eq_zero (by omega) hsplit hq
  constructor
  case n_range => exact fun _ => h.n_range (by rw [hp]; rfl)
  case z_least => exact fun _ => h.z_least hgen
  case factored => exact fun _ => ⟨hsplit, hq, h2, hs⟩
  all_goals simp [hb, hcode, hres, hop, hodd, hr, hmod, h.z_range hgen,
    h.z_nonresidue (by rw [hp]; rfl), phaseOpcode]

/-- `r = n^((q+1)/2)` and `t = n^q` start the loop with `r^2 ≡ t * n` (42_sqrt_mod.md R139). -/
theorem searchStart_root (n z s : Word) {q : Word} (p : OddModulus) (hq : q.toNat % 2 = 1) :
    (searchStart n z s q p).r.toNat * (searchStart n z s q p).r.toNat ≡
      (searchStart n z s q p).t.toNat * n.toNat [MOD p.val.toNat] := by
  have hexp : (q.toNat + 1) / 2 + (q.toNat + 1) / 2 = q.toNat + 1 := by omega
  simp only [searchStart, powMod_toNat, halfUp_toNat, OddModulus.toModulus_val]
  calc _ ≡ n.toNat ^ ((q.toNat + 1) / 2) * n.toNat ^ ((q.toNat + 1) / 2) [MOD p.val.toNat] :=
        (Nat.mod_modEq _ _).mul (Nat.mod_modEq _ _)
    _ = n.toNat ^ q.toNat * n.toNat := by rw [← pow_add, hexp, pow_succ]
    _ ≡ _ [MOD p.val.toNat] := (Nat.mod_modEq _ _).symm.mul_right _

theorem inv_stepGsInitvars (h : Inv s) (hb : s.busy = true) (hp : s.ph = .gsInitvars)
    (ht : stepGsInitvars s = .next t) : Inv t := by
  obtain ⟨p, hpv, rfl⟩ := stepGsInitvars_cases ht
  obtain ⟨hcode, hres, hop, hodd⟩ := h.sqrtmod hb (by rw [hp]; rfl) (by rw [hp]; rfl)
  have hgen : s.ph.general = true := by rw [hp]; rfl
  have hr := h.n_residue (by rw [hp]; rfl)
  have hf := h.factored (by rw [hp]; rfl)
  constructor
  case n_range => exact fun _ => h.n_range (by rw [hp]; rfl)
  case z_least => exact fun _ => h.z_least hgen
  case factored => exact fun _ => hf
  case search_range =>
    intro _
    obtain ⟨-, -, hs, -⟩ := hf
    have hlt (b e : Word) := powMod_lt b e p.toModulus
    rw [OddModulus.toModulus_val, hpv] at hlt
    exact ⟨hlt _ _, hlt _ _, hlt _ _, Nat.le_of_succ_le hs, le_rfl⟩
  case root_invariant =>
    intro _
    obtain ⟨-, hq, -⟩ := hf
    have hroot := searchStart_root s.wN s.wZ s.wS p hq
    rw [hpv] at hroot
    exact hroot
  all_goals simp [hb, hcode, hres, hop, hodd, hr, h.general_mod_four hgen,
    h.z_range hgen, h.z_nonresidue (by rw [hp]; rfl), phaseOpcode]

/-- One iteration multiplies `r` by `b` and `t` by `b^2`, which keeps `r^2 ≡ t * n`
(42_sqrt_mod.md R139). -/
theorem corrUpdate_root {p : OddModulus} {x : Search} {n : Nat} (i : Nat)
    (h : x.r.toNat * x.r.toNat ≡ x.t.toNat * n [MOD p.val.toNat]) :
    (corrUpdate p i x).r.toNat * (corrUpdate p i x).r.toNat ≡
      (corrUpdate p i x).t.toNat * n [MOD p.val.toNat] := by
  simp only [corrUpdate, mulMod_toNat, OddModulus.toModulus_val]
  generalize (powMod x.c (corrExponent x.m i) p.toModulus).toNat = b
  calc _ ≡ x.r.toNat * b * (x.r.toNat * b) [MOD p.val.toNat] :=
        (Nat.mod_modEq _ _).mul (Nat.mod_modEq _ _)
    _ = x.r.toNat * x.r.toNat * (b * b) := by ring
    _ ≡ x.t.toNat * n * (b * b) [MOD p.val.toNat] := h.mul_right _
    _ = x.t.toNat * (b * b) * n := by ring
    _ ≡ _ [MOD p.val.toNat] :=
        (((Nat.mod_modEq _ _).mul_left _).symm.trans (Nat.mod_modEq _ _).symm).mul_right _

theorem inv_stepCorrLoop (h : Inv s) (hp : s.ph = .corrLoop) (ht : stepCorrLoop s = .next t) :
    Inv t := by
  obtain ⟨p, hpv, ⟨-, rfl⟩ | ⟨-, -, rfl⟩ | ⟨-, i, hi, -, rfl⟩⟩ := stepCorrLoop_cases ht
  · exact inv_complete _ _ _ fun hne => absurd rfl hne
  · exact inv_raiseFault _ s
  · refine { h with search_range := fun _ => ?_, root_invariant := fun _ => ?_ }
    · obtain ⟨-, -, -, -, hms⟩ := h.search_range hp
      have hm : (corrUpdate p i (searchOf s)).m.toNat = i := corrUpdate_m_toNat (searchOf s) hi
      obtain ⟨hi1, him⟩ := leastI_range hi
      have hlt (a b : Word) := mulMod_lt a b p.toModulus
      rw [OddModulus.toModulus_val, hpv] at hlt
      refine ⟨hlt _ _, hlt _ _, hlt _ _, ?_, ?_⟩ <;> simp only [setSearch_wM, setSearch_wS, hm]
      · exact hi1
      · omega
    · have hroot := h.root_invariant hp
      rw [← hpv] at hroot
      have hnext := corrUpdate_root (x := searchOf s) i hroot
      rw [hpv] at hnext
      exact hnext

/-! ### Every step -/

theorem inv_engineStep (h : Inv s) (ht : engineStep s = .next t) : Inv t := by
  obtain ⟨-, rfl⟩ | ⟨hb, ⟨-, rfl⟩ | ⟨-, ht⟩ | ⟨-, ht⟩ | ⟨hp, ht⟩ | ⟨hp, ht⟩ | ⟨-, ht⟩ | ⟨hp, ht⟩ |
    ⟨hp, ht⟩ | ⟨hp, ht⟩ | ⟨hp, ht⟩⟩ := engineStep_cases ht
  · exact h
  · exact h
  · obtain ⟨_, -, rfl⟩ := stepPmExec_cases ht
    exact inv_complete _ _ _ fun hne => absurd rfl hne
  · obtain ⟨_, -, rfl⟩ := stepLgExec_cases ht
    exact inv_complete _ _ _ fun hne => absurd rfl hne
  · exact inv_stepInit h hb hp ht
  · exact inv_stepDispatch h hb hp ht
  · obtain ⟨_, -, rfl⟩ := stepFastpath_cases ht
    exact inv_complete _ _ _ fun hne => absurd rfl hne
  · exact inv_stepGsZsearch h hb hp ht
  · exact inv_stepGsFactor h hb hp ht
  · exact inv_stepGsInitvars h hb hp ht
  · exact inv_stepCorrLoop h hp ht

theorem inv_runEvent {e : Event} (h : Inv s) (ht : runEvent e s = .next t) : Inv t := by
  cases e with
  | hostRead i => cases ht; exact { h with }
  | hostWrite i v => exact inv_hostWrite h ht
  | engine => exact inv_engineStep h ht
  | reset => cases ht; exact inv_resetEngine s

/-- Settles O7: the next event keeps the invariant, which does not speak of the events to come. -/
theorem everyStepKeepsTheInvariant : Obligations.EveryStepKeepsTheInvariant := by
  unfold Obligations.EveryStepKeepsTheInvariant
  intro s t h ht
  cases hin : s.inbox with
  | nil => exact inv_engineStep h ((step_nil hin).symm.trans ht)
  | cons e es =>
    have htaken : Inv { s with inbox := es } := { h with }
    exact inv_runEvent htaken ((step_cons hin).symm.trans ht)

end Sys2Proof.Machine
end

section
/-! SUPPORT. The statements of 20_memory.md: what the two host transactions return and store. -/

namespace Sys2Proof.Machine

variable {s : State}

/-- The STATUS word does not wrap: it is the sum of R27. -/
theorem statusWord_toNat (s : State) :
    (statusWord s).toNat = busyBit s.busy + 2 * doneBit s.code + 16 * codeNumber s.code := by
  have hlt : busyBit s.busy + 2 * doneBit s.code + 16 * codeNumber s.code < 2 ^ 64 := by
    cases s.busy <;> cases s.code <;> decide
  rw [statusWord, BitVec.toNat_ofNat, Nat.mod_eq_of_lt hlt]

/-- A host read returns an operand register, STATUS, RES, or 0 for CMD and the reserved indices. -/
theorem hostReadValue_cases (i : RegIndex) (s : State) :
    (i = 0#3 ∧ hostReadValue i s = s.opa) ∨
    (i = 1#3 ∧ hostReadValue i s = s.opb) ∨
    (i = 2#3 ∧ hostReadValue i s = s.opm) ∨
    (i = 4#3 ∧ hostReadValue i s = statusWord s) ∨
    (i = 5#3 ∧ hostReadValue i s = s.res) ∨
    ((i = 3#3 ∨ i = 6#3 ∨ i = 7#3) ∧ hostReadValue i s = 0#64) := by
  obtain ⟨i⟩ := i
  match i with
  | ⟨0, _⟩ => exact .inl ⟨rfl, rfl⟩
  | ⟨1, _⟩ => exact .inr (.inl ⟨rfl, rfl⟩)
  | ⟨2, _⟩ => exact .inr (.inr (.inl ⟨rfl, rfl⟩))
  | ⟨3, _⟩ => exact .inr (.inr (.inr (.inr (.inr ⟨.inl rfl, rfl⟩))))
  | ⟨4, _⟩ => exact .inr (.inr (.inr (.inl ⟨rfl, rfl⟩)))
  | ⟨5, _⟩ => exact .inr (.inr (.inr (.inr (.inl ⟨rfl, rfl⟩))))
  | ⟨6, _⟩ => exact .inr (.inr (.inr (.inr (.inr ⟨.inr (.inl rfl), rfl⟩))))
  | ⟨7, _⟩ => exact .inr (.inr (.inr (.inr (.inr ⟨.inr (.inr rfl), rfl⟩))))

/-- What the host has read so far does not change what it reads next (20_memory.md R52). -/
theorem hostReadValue_reply (i : RegIndex) (v : Word) (s : State) :
    hostReadValue i (reply v s) = hostReadValue i s := by
  unfold hostReadValue
  cases regOfIndex i with
  | none => rfl
  | some r => cases r <;> rfl

/-- While busy nothing is delivered, so STATUS shows BUSY alone and RES is 0 (20_memory.md R52). -/
theorem hostReadValue_busy (h : Inv s) (hb : s.busy = true) :
    hostReadValue 4#3 s = 0x01#64 ∧ hostReadValue 5#3 s = 0#64 := by
  have hcode := h.busy_code hb
  constructor
  · simp [hostReadValue_status, statusWord, hb, hcode, busyBit, doneBit, codeNumber]
  · rw [hostReadValue_res]
    exact h.res_zero (by simp [hcode])

/-- Settles O10: the value read by index, and the second read sees the state of the first but for the
host's record. -/
theorem hostReadReturnsAndChangesNothing : Obligations.HostReadReturnsAndChangesNothing := by
  unfold Obligations.HostReadReturnsAndChangesNothing
  refine ⟨fun s i => ⟨hostReadValue i s, runEvent_read i s, ?_, ?_⟩, fun _ => hostReadValue_busy⟩
  · obtain ⟨rfl, hv⟩ | ⟨rfl, hv⟩ | ⟨rfl, hv⟩ | ⟨rfl, hv⟩ | ⟨rfl, hv⟩ | ⟨hi, hv⟩ :=
      hostReadValue_cases i s <;> rw [hv]
    · simp
    · simp
    · simp
    · simp [statusWord_toNat, busyBit, doneBit]
    · simp
    · obtain rfl | rfl | rfl := hi <;> simp
  · have hsecond := runEvent_read i (reply (hostReadValue i s) s)
    rw [hostReadValue_reply] at hsecond
    exact hsecond

/-- Settles O11, by the index written. -/
theorem hostWriteStoresIssuesOrHasNoEffect :
    Obligations.HostWriteStoresIssuesOrHasNoEffect := by
  unfold Obligations.HostWriteStoresIssuesOrHasNoEffect
  intro s i v
  obtain ⟨rfl, hw⟩ | ⟨rfl, hw⟩ | ⟨rfl, hw⟩ | ⟨rfl, hw⟩ | ⟨hi, hw⟩ :=
    runEvent_write_cases i v s <;> rw [hw]
  · simp
  · simp
  · simp
  · simp
  · have h0 : i.toNat ≠ 0 := by omega
    have h1 : i.toNat ≠ 1 := by omega
    have h2 : i.toNat ≠ 2 := by omega
    have h3 : i.toNat ≠ 3 := by omega
    simp [h0, h1, h2, h3]

end Sys2Proof.Machine
end

section
/-! SUPPORT. The statements of 30_encoding.md on the command word: which words decode, and what a
write of any word to CMD does. -/

namespace Sys2Proof

variable {v : Word} {i : Instr}

/-! ### The command word -/

/-- A command word is its two fields, RSV above OPC (30_encoding.md R70). -/
theorem rsvField_append_opcField (v : Word) : rsvField v ++ opcField v = v := by
  have hfields : rsvField v ++ opcField v = v.extractLsb' 0 64 :=
    BitVec.extractLsb'_append_extractLsb'_eq_extractLsb' rfl
  rw [hfields, BitVec.extractLsb'_eq_self]

theorem encode_toNat (i : Instr) : (encode i).toNat = (opcode i).toNat := by
  cases i <;> rfl

/-- Every command's word has the fields of R70 and R72. -/
theorem wordFields (i : Instr) : Laws.WordFields.Statement i :=
  match i with
  | .powmod => Laws.WordFields.powmod
  | .legendre => Laws.WordFields.legendre
  | .sqrtmod => Laws.WordFields.sqrtmod

/-- The decoder undoes the encoder. -/
theorem decode_encode (i : Instr) : decode (encode i) = .ok i := by
  obtain ⟨-, hrsv, hopc, -⟩ := wordFields i
  rw [decode_of_rsvZero hrsv, hopc, instrOfOpcode_opcode]

/-- No other word decodes to a command: a nonzero RSV is refused, the opcode map injective. -/
theorem eq_encode_of_decode (h : decode v = .ok i) : v = encode i := by
  by_cases hr : rsvField v = 0#56
  · rw [decode_of_rsvZero hr] at h
    cases hc : instrOfOpcode (opcField v) with
    | none => simp [hc] at h
    | some j =>
      obtain rfl : j = i := by simpa [hc] using h
      rw [← rsvField_append_opcField v, hr, opcode_of_instrOfOpcode hc, encode]
  · cases (decode_reserved hr).symm.trans h

theorem decode_eq_ok_iff : decode v = .ok i ↔ v = encode i :=
  ⟨eq_encode_of_decode, fun h => h ▸ decode_encode i⟩

/-- The encodings are the words 1, 2 and 3 (30_encoding.md R72). -/
theorem exists_eq_encode_iff :
    (∃ i, v = encode i) ↔ v.toNat = 1 ∨ v.toNat = 2 ∨ v.toNat = 3 := by
  constructor
  · rintro ⟨i, rfl⟩
    cases i <;> simp [encode_toNat, opcode]
  · rintro (h | h | h)
    · exact ⟨.powmod, BitVec.eq_of_toNat_eq h⟩
    · exact ⟨.legendre, BitVec.eq_of_toNat_eq h⟩
    · exact ⟨.sqrtmod, BitVec.eq_of_toNat_eq h⟩

/-- The words refused are the words that encode nothing (30_encoding.md R76). -/
theorem exists_decode_eq_error_iff :
    (∃ e, decode v = .error e) ↔ v.toNat ≠ 1 ∧ v.toNat ≠ 2 ∧ v.toNat ≠ 3 := by
  have hrefused : (∃ e, decode v = .error e) ↔ ¬ ∃ i, v = encode i := by
    simp only [← decode_eq_ok_iff]
    cases decode v <;> simp
  rw [hrefused, exists_eq_encode_iff]
  omega

/-- Settles O2: `decode` and `encode` are inverse, and the encodings are 1, 2 and 3. -/
theorem decodeAcceptsExactlyTheEncodings : Obligations.DecodeAcceptsExactlyTheEncodings := by
  unfold Obligations.DecodeAcceptsExactlyTheEncodings
  exact fun _ => ⟨fun _ => decode_eq_ok_iff, exists_decode_eq_error_iff⟩

/-- Settles O1: three encodings, two words whose opcode is no command's, one with a bit in RSV. -/
theorem commandWordsDecodeAsTabled : Obligations.CommandWordsDecodeAsTabled := by
  unfold Obligations.CommandWordsDecodeAsTabled
  refine ⟨decode_powmod_word, decode_legendre_word, decode_sqrtmod_word, ?_, ?_, ?_⟩
  · exact decode_of_rsvZero (by decide)
  · exact decode_of_rsvZero (by decide)
  · exact decode_reserved (by decide)

end Sys2Proof

namespace Sys2Proof.Machine

variable {s : State} {v : Word} {i : Instr}

/-! ### The command issue -/

theorem runEvent_write_cmd (v : Word) (s : State) :
    runEvent (.hostWrite 3#3 v) s = issueCommand v s := rfl

/-- A command issued while busy is dropped (30_encoding.md R74). -/
theorem exec_busy (h : s.busy = true) (i : Instr) : exec i s = .next s := by
  cases i <;> simp [exec, execPowmod, execLegendre, execSqrtmod, h]

/-- Issuing a word that decodes is its command's `exec`, busy or not. -/
theorem issueCommand_of_decode (h : decode v = .ok i) (s : State) :
    issueCommand v s = exec i s := by
  cases hb : s.busy with
  | true => rw [issueCommand_busy v hb, exec_busy hb]
  | false => exact issueCommand_legal hb h

/-- The boundary check LEGENDRE and SQRTMOD share (41_legendre.md R112, 42_sqrt_mod.md R126). -/
theorem badModulus_eq_true_iff (p : Word) :
    badModulus p = true ↔ p.toNat % 2 = 0 ∨ p.toNat < 3 := by
  simp [badModulus]

/-- What an idle engine does with POWMOD (40_pow_mod.md R95). -/
theorem acceptance_powmod (s : State) :
    acceptance .powmod s =
      if s.opm.toNat = 0 then raiseFault .errModzero (latch .powmod s)
      else startPhase .pmExec (latch .powmod s) := by
  by_cases hm : s.opm = 0#64
  · simp [acceptance, boundaryFault, hm]
  · have hne : s.opm.toNat ≠ 0 := fun h => hm (BitVec.eq_of_toNat_eq h)
    simp [acceptance, boundaryFault, firstPhase, hm, hne]

/-- What an idle engine does with a command other than POWMOD (41_legendre.md R112, 42_sqrt_mod.md
R126). -/
theorem acceptance_oddModulus (h : i ≠ .powmod) (s : State) :
    acceptance i s =
      if s.opm.toNat % 2 = 0 ∨ s.opm.toNat < 3 then raiseFault .errBadp (latch i s)
      else startPhase (firstPhase i) (latch i s) := by
  have hfault : boundaryFault i s.opm = if badModulus s.opm then some .errBadp else none := by
    cases i with
    | powmod => exact absurd rfl h
    | legendre => rfl
    | sqrtmod => rfl
  simp only [← badModulus_eq_true_iff, acceptance, hfault]
  cases badModulus s.opm <;> rfl

/-- Settles O12: the write is dropped, rejected, or the acceptance of one of the three commands. -/
theorem cmdWriteDecidesTheIssue : Obligations.CmdWriteDecidesTheIssue := by
  unfold Obligations.CmdWriteDecidesTheIssue
  intro s v
  rw [runEvent_write_cmd]
  cases hb : s.busy with
  | true => simp [issueCommand_busy v hb]
  | false =>
    cases hd : decode v with
    | error e =>
      have hillegal := exists_decode_eq_error_iff.1 ⟨e, hd⟩
      simp [issueCommand_illegal hb hd, hillegal, complete]
    | ok i =>
      obtain rfl := eq_encode_of_decode hd
      rw [issueCommand_legal hb hd, exec_idle hb]
      cases i with
      | powmod =>
        rw [acceptance_powmod]
        split <;> simp [*, encode_toNat, opcode, raiseFault, complete, startPhase, latch]
      | legendre | sqrtmod =>
        rw [acceptance_oddModulus (by decide)]
        split <;>
          simp [*, encode_toNat, opcode, raiseFault, complete, startPhase, latch, firstPhase]

/-! ### One step -/

/-- Settles O3: the event of a fetched word is a write to CMD, which issues the word. -/
theorem stepRunsTheDecodedCommand : Obligations.StepRunsTheDecodedCommand := by
  unfold Obligations.StepRunsTheDecodedCommand
  refine ⟨fun s v i hd _ => ⟨?_, fun es hin => ?_⟩, fun _ _ _ => step_cons, runEvent_engine,
    fun _ => step_nil⟩
  · have hin : (s.withFetchWord 64 v.toNat).inbox = .hostWrite 3#3 v :: s.inbox := by
      simp only [State.withFetchWord, Nat.mod_eq_of_lt v.isLt, BitVec.ofNat_toNat,
        BitVec.setWidth_eq]
    rw [step_cons hin]
    exact issueCommand_of_decode hd s
  · rw [step_cons hin]
    exact issueCommand_of_decode hd _

end Sys2Proof.Machine
end

section
/-! SUPPORT. The statement of 30_encoding.md on host scripts: what a turn does by the line the host
is at, and the run of the pseudo-line powmod (R79) assembled from such turns. -/

namespace Sys2Proof.Machine

variable {s t : State} {ls : List Line} {bs : List (Name × Word)} {dst : Option Name}
  {ts : List Turn}

/-! ### What the lines read and write -/

/-- A literal that is the value of a word stands for that word (30_encoding.md R78). -/
theorem valWord_lit_toNat (bs : List (Name × Word)) (v : Word) :
    valWord bs (.lit v.toNat) = some v := by
  simp [valWord, v.isLt]

theorem hostReadValue_regIndex (r : Reg) (s : State) :
    hostReadValue (regIndex r) s = readReg r s := by
  cases r <;> rfl

theorem hostWrite_regIndex (r : Reg) (v : Word) (s : State) :
    hostWrite (regIndex r) v s = writeReg r v s := by
  cases r <;> rfl

theorem writeReg_opa (v : Word) (s : State) : writeReg .opa v s = .next { s with opa := v } := rfl

theorem writeReg_opb (v : Word) (s : State) : writeReg .opb v s = .next { s with opb := v } := rfl

theorem writeReg_opm (v : Word) (s : State) : writeReg .opm v s = .next { s with opm := v } := rfl

/-- The CMD write of POWMOD, on an idle engine with a nonzero modulus (40_pow_mod.md R95). -/
theorem writeReg_cmd_powmod (hb : s.busy = false) (hm : s.opm.toNat ≠ 0) :
    writeReg .cmd (encode .powmod) s = .next (startPhase .pmExec (latch .powmod s)) := by
  calc writeReg .cmd (encode .powmod) s
      = exec .powmod s := issueCommand_legal hb (decode_encode .powmod)
    _ = .next (acceptance .powmod s) := exec_idle hb .powmod
    _ = .next (startPhase .pmExec (latch .powmod s)) := by rw [acceptance_powmod, if_neg hm]

/-- BUSY is the lowest bit of STATUS (10_state.md R27). -/
theorem statusWord_mod_two (s : State) : (statusWord s).toNat % 2 = busyBit s.busy := by
  have hbit : busyBit s.busy < 2 := by cases s.busy <;> decide
  rw [statusWord_toNat]
  omega

/-- STATUS after a command that completed with a value: DONE, and code 1 (10_state.md R27). -/
theorem statusWord_complete_ok (v : Word) (s : State) :
    statusWord (complete .ok v s) = 0x12#64 := rfl

/-- The one engine step of POWMOD completes it (40_pow_mod.md R96). -/
theorem engineStep_pmExec (hb : s.busy = true) (hp : s.ph = .pmExec) (hm : 0 < s.wP.toNat) :
    engineStep s = .next (complete .ok (powMod s.wA s.wB ⟨s.wP, hm⟩) s) := by
  simp only [engineStep_busy hb, phaseStep, hp, stepPmExec]
  exact withModulus_of_pos hm _

/-! ### One turn -/

theorem runSession_host {x y : Session} (h : hostTurn x = .ok y) :
    runSession (.host :: ts) x = runSession ts y := by
  simp [runSession, h]

/-- The engine's turn leaves the script and the names as they are. -/
theorem runSession_engine (h : engineStep s = .next t) :
    runSession (.engine :: ts) ⟨s, ls, bs⟩ = runSession ts ⟨t, ls, bs⟩ := by
  simp [runSession, engineTurn_of_step (x := ⟨s, ls, bs⟩) h]

/-- A `wr` line writes its value to its register and is over. -/
theorem runSession_wr {r : Reg} {u : Val} {v : Word} (hu : valWord bs u = some v)
    (ht : writeReg r v s = .next t) :
    runSession (.host :: ts) ⟨s, .wr r u :: ls, bs⟩ = runSession ts ⟨t, ls, bs⟩ := by
  have hevent : runEvent (.hostWrite (regIndex r) v) s = .next t :=
    (hostWrite_regIndex r v s).trans ht
  have hline : lineEvent bs (.wr r u) = some (.hostWrite (regIndex r) v) := by
    simp [lineEvent, hu]
  rw [runSession_host (hostTurn_of_event rfl hline hevent)]
  rfl

/-- A `rd` line binds its name to what its register reads. -/
theorem runSession_rd (r : Reg) :
    runSession (.host :: ts) ⟨s, .rd r dst :: ls, bs⟩ =
      runSession ts ⟨reply (readReg r s) s, ls, bindName dst (readReg r s) bs⟩ := by
  rw [runSession_host (hostTurn_of_event rfl rfl (runEvent_read _ _)), hostReadValue_regIndex]
  rfl

/-- A `wait` line polls once more while the engine is busy (30_encoding.md R79). -/
theorem runSession_wait_busy (hb : s.busy = true) :
    runSession (.host :: ts) ⟨s, .wait dst :: ls, bs⟩ =
      runSession ts ⟨reply (statusWord s) s, .wait dst :: ls,
        bindName (some stName) (statusWord s) bs⟩ := by
  have hpoll : (statusWord s).toNat % 2 = 1 := by rw [statusWord_mod_two, hb]; rfl
  rw [runSession_host (hostTurn_of_event rfl rfl (runEvent_read _ _)), hostReadValue_regIndex]
  simp [readReg, afterLine_wait_busy hpoll]

/-- A `wait` line is over when the engine is idle, with the STATUS word that showed it bound. -/
theorem runSession_wait_idle (hb : s.busy = false) :
    runSession (.host :: ts) ⟨s, .wait dst :: ls, bs⟩ =
      runSession ts ⟨reply (statusWord s) s, ls,
        bindName dst (statusWord s) (bindName (some stName) (statusWord s) bs)⟩ := by
  have hpoll : (statusWord s).toNat % 2 ≠ 1 := by rw [statusWord_mod_two, hb]; decide
  rw [runSession_host (hostTurn_of_event rfl rfl (runEvent_read _ _)), hostReadValue_regIndex]
  simp [readReg, afterLine_wait_done hpoll]

/-! ### Runs of turns -/

/-- Any number of polls of a busy engine change only what the host has read and the names. -/
theorem runSession_busyPolls (hb : s.busy = true) (k : Nat) :
    ∃ (vs : List Word) (cs : List (Name × Word)),
      runSession (List.replicate k .host ++ ts) ⟨s, .wait dst :: ls, bs⟩ =
        runSession ts ⟨{ s with replies := vs }, .wait dst :: ls, cs⟩ := by
  induction k generalizing s bs with
  | zero => exact ⟨s.replies, bs, rfl⟩
  | succ k ih =>
    rw [List.replicate_succ, List.cons_append, runSession_wait_busy hb]
    exact ih (s := reply (statusWord s) s) hb

/-- The machine once the host has written the operands of POWMOD and its word to CMD. -/
def powmodIssued (a b m : Word) (s : State) : State :=
  startPhase .pmExec (latch .powmod { s with opa := a, opb := b, opm := m })

/-- The first four turns of the pseudo-line powmod issue the command (30_encoding.md R79). -/
theorem runSession_powmodWrites {m : Word} (hb : s.busy = false) (hm : m.toNat ≠ 0) (a b : Word) :
    runSession (List.replicate 4 .host ++ ts)
        ⟨s, expandLine (.powmod (.lit a.toNat) (.lit b.toNat) (.lit m.toNat) dst) ++ ls, bs⟩ =
      runSession ts ⟨powmodIssued a b m s, .wait none :: .rd .res dst :: ls, bs⟩ := by
  have hlit := valWord_lit_toNat bs
  have hcmd : writeReg .cmd (encode .powmod) { s with opa := a, opb := b, opm := m } =
      .next (powmodIssued a b m s) := writeReg_cmd_powmod hb hm
  simp only [expandLine, List.replicate, List.cons_append, List.nil_append]
  rw [runSession_wr (hlit a) (writeReg_opa a s), runSession_wr (hlit b) (writeReg_opb b _),
    runSession_wr (hlit m) (writeReg_opm m _)]
  exact runSession_wr rfl hcmd

/-- The turns of the pseudo-line powmod after its polls: the engine's step, the read of STATUS that
ends the `wait`, and the read of RES. -/
theorem runSession_powmodReads (hb : s.busy = true) (hp : s.ph = .pmExec) (hm : 0 < s.wP.toNat) :
    runSession [.engine, .host, .host] ⟨s, .wait none :: .rd .res dst :: ls, bs⟩ =
      .ok ⟨reply (powMod s.wA s.wB ⟨s.wP, hm⟩)
          (reply 0x12#64 (complete .ok (powMod s.wA s.wB ⟨s.wP, hm⟩) s)), ls,
        bindName dst (powMod s.wA s.wB ⟨s.wP, hm⟩) (bindName (some stName) 0x12#64 bs)⟩ := by
  rw [runSession_engine (engineStep_pmExec hb hp hm), runSession_wait_idle (complete_busy s _ _),
    statusWord_complete_ok, runSession_rd]
  rfl

/-- Settles O48: four writes, the polls, the engine's step and two reads. -/
theorem powmodLineBindsThePower : Obligations.PowmodLineBindsThePower := by
  unfold Obligations.PowmodLineBindsThePower
  rintro ⟨s, script, bs⟩ a b m d rest k hb hm rfl
  have hpos : 0 < m.toNat := Nat.pos_of_ne_zero hm
  have hrun := runSession_powmodWrites (ls := rest) (bs := bs) (dst := some d)
    (ts := List.replicate k .host ++ [.engine, .host, .host]) hb hm a b
  obtain ⟨vs, cs, hpolls⟩ := runSession_busyPolls (s := powmodIssued a b m s) (bs := bs)
    (dst := none) (ls := .rd .res (some d) :: rest) (ts := [.engine, .host, .host]) rfl k
  have hreads := runSession_powmodReads (s := { powmodIssued a b m s with replies := vs })
    (ls := rest) (bs := cs) (dst := some d) rfl rfl hpos
  rw [hpolls, hreads] at hrun
  rw [List.append_assoc]
  refine ⟨_, powMod a b ⟨m, hpos⟩, hrun, rfl, lookupName_bindName_self .., powMod_toNat ..,
    fun hd => ?_, rfl, rfl⟩
  rw [lookupName_bindName_ne (Ne.symm hd), lookupName_bindName_self]

end Sys2Proof.Machine
end

section
/-! SUPPORT. The statements of 40_pow_mod.md: the value, the range and the edge cases of `PowMod`, the
command POWMOD, and that no step stops the machine under the invariant (R101, R102). -/

namespace Sys2Proof.Machine

variable {s : State}

/-! ### Steps that answer a next state

Only the engine's turn can stop the machine, so every other event is set aside first. Under the
invariant the modulus of each phase is in its domain, and the two stores that could exceed the width
do not. -/

theorem withOddModulus_answers {w : Word} {k : OddModulus → Host.Outcome State Fault Refusal}
    (hw : w.toNat % 2 = 1 ∧ 3 ≤ w.toNat) (hk : ∀ p : OddModulus, p.val = w → ∃ t, k p = .next t) :
    ∃ t, withOddModulus w k = .next t := by
  rw [withOddModulus_of_odd hw.1 hw.2]
  exact hk _ rfl

theorem stepInit_answers (hw : s.wP.toNat % 2 = 1 ∧ 3 ≤ s.wP.toNat) :
    ∃ t, stepInit s = .next t := by
  refine withOddModulus_answers hw fun p _ => ?_
  by_cases hn : reduce s.wA p.toModulus = 0#64 <;> simp [hn]

theorem stepDispatch_answers (hw : s.wP.toNat % 2 = 1 ∧ 3 ≤ s.wP.toNat) :
    ∃ t, stepDispatch s = .next t := by
  refine withOddModulus_answers hw fun p _ => ?_
  by_cases hl : legendreValue s.wN p = 1#64
  · by_cases hmod : s.wP.toNat % 4 = 3 <;> simp [hl, hmod]
  · simp [hl]

/-- The search stops at the modulus at the latest, so the next candidate fits the width
(40_pow_mod.md R102, 42_sqrt_mod.md R138). -/
theorem succ_candidate_lt {z : Word} {p : OddModulus} (hz : z.toNat ≤ p.val.toNat)
    (hl : legendreValue z p = 1#64) : z.toNat + 1 < 2 ^ 64 := by
  have hne : z.toNat ≠ p.val.toNat := by
    intro heq
    have hself := pow_halfPred_mod_self p
    rw [legendreValue_eq_one_iff, heq] at hl
    omega
  have := p.val.isLt
  omega

theorem stepGsZsearch_answers (hw : s.wP.toNat % 2 = 1 ∧ 3 ≤ s.wP.toNat)
    (hz : s.wZ.toNat ≤ s.wP.toNat) : ∃ t, stepGsZsearch s = .next t := by
  refine withOddModulus_answers hw fun p hp => ?_
  by_cases hl : legendreValue s.wZ p = 1#64
  · have hlt := succ_candidate_lt (hp ▸ hz) hl
    simp [hl, withinWidth_of_lt hlt]
  · simp [hl]

/-- The shift of a correction is below `m`, which is at most 63 (42_sqrt_mod.md R136). -/
theorem stepCorrLoop_answers (hw : s.wP.toNat % 2 = 1 ∧ 3 ≤ s.wP.toNat) (hm : s.wM.toNat ≤ 63) :
    ∃ t, stepCorrLoop s = .next t := by
  refine withOddModulus_answers hw fun p _ => ?_
  by_cases ht : s.wT = 1#64
  · simp [ht]
  · cases hi : leastI s.wT s.wM p with
    | none => simp [ht]
    | some i =>
      have hshift : s.wM.toNat - i - 1 < Config.W := by
        show s.wM.toNat - i - 1 < 64
        omega
      simp [ht, hshift]

/-- No engine step stops under the invariant. -/
theorem engineStep_answers (h : Inv s) : ∃ t, engineStep s = .next t := by
  cases hb : s.busy with
  | false => exact ⟨s, engineStep_idle hb⟩
  | true =>
    have hodd := h.odd_modulus
    rw [engineStep_busy hb]
    cases hp : s.ph <;> simp only [phaseStep, hp] <;> rw [hp] at hodd
    case idle => exact ⟨s, rfl⟩
    case pmExec => exact ⟨_, withModulus_of_pos (h.pm_modulus hp) _⟩
    case lgExec => exact withOddModulus_answers (hodd rfl) fun _ _ => ⟨_, rfl⟩
    case init => exact stepInit_answers (hodd rfl)
    case dispatch => exact stepDispatch_answers (hodd rfl)
    case fastpath => exact withOddModulus_answers (hodd rfl) fun _ _ => ⟨_, rfl⟩
    case gsZsearch => exact stepGsZsearch_answers (hodd rfl) (h.z_range (by rw [hp]; rfl)).2
    case gsFactor => exact withOddModulus_answers (hodd rfl) fun _ _ => ⟨_, rfl⟩
    case gsInitvars => exact withOddModulus_answers (hodd rfl) fun _ _ => ⟨_, rfl⟩
    case corrLoop =>
      obtain ⟨-, -, -, hs⟩ := h.factored (by rw [hp]; rfl)
      obtain ⟨-, -, -, -, hms⟩ := h.search_range hp
      exact stepCorrLoop_answers (hodd rfl) (hms.trans hs)

theorem issueCommand_answers (v : Word) (s : State) : ∃ t, issueCommand v s = .next t := by
  obtain ⟨-, h⟩ | ⟨-, h⟩ | ⟨-, _, -, h⟩ := issueCommand_cases v s <;> exact ⟨_, h⟩

/-- A host transaction and a reset answer a next state, in every state. -/
theorem runEvent_answers {e : Event} (he : e ≠ .engine) (s : State) :
    ∃ t, runEvent e s = .next t := by
  cases e with
  | hostRead i => exact ⟨_, runEvent_read i s⟩
  | hostWrite i v =>
    obtain ⟨-, h⟩ | ⟨-, h⟩ | ⟨-, h⟩ | ⟨-, h⟩ | ⟨-, h⟩ := runEvent_write_cases i v s
    case inr.inr.inr.inl => exact h ▸ issueCommand_answers v s
    all_goals exact ⟨_, h⟩
  | engine => exact absurd rfl he
  | reset => exact ⟨_, runEvent_reset s⟩

/-- A step answers a next state, or it is the engine's turn. -/
theorem step_answers_or_engineStep (s : State) :
    (∃ t, step s = .next t) ∨ ∃ es, step s = engineStep { s with inbox := es } := by
  cases hin : s.inbox with
  | nil => exact .inr ⟨s.inbox, step_nil hin⟩
  | cons e es =>
    rw [step_cons hin]
    by_cases he : e = .engine
    · exact .inr ⟨es, by rw [he, runEvent_engine]⟩
    · exact .inl (runEvent_answers he _)

/-! ### No refusal -/

theorem withModulus_ne_refused {w : Word} {k : Modulus → Host.Outcome State Fault Refusal}
    {r : Refusal} (hk : ∀ m, k m ≠ .refused r) : withModulus w k ≠ .refused r := by
  unfold withModulus
  split
  · exact hk _
  · simp

theorem withOddModulus_ne_refused {w : Word} {k : OddModulus → Host.Outcome State Fault Refusal}
    {r : Refusal} (hk : ∀ p, k p ≠ .refused r) : withOddModulus w k ≠ .refused r := by
  unfold withOddModulus
  split
  · exact hk _
  · simp

theorem withinWidth_ne_refused {n : Nat} {k : Word → Host.Outcome State Fault Refusal}
    {r : Refusal} (hk : ∀ v, k v ≠ .refused r) : withinWidth n k ≠ .refused r := by
  unfold withinWidth
  split
  · exact hk _
  · simp

theorem stepInit_ne_refused (s : State) (r : Refusal) : stepInit s ≠ .refused r := by
  refine withOddModulus_ne_refused fun p => ?_
  by_cases hn : reduce s.wA p.toModulus = 0#64 <;> simp [hn]

theorem stepDispatch_ne_refused (s : State) (r : Refusal) : stepDispatch s ≠ .refused r := by
  refine withOddModulus_ne_refused fun p => ?_
  split
  · simp
  · split <;> simp

theorem stepGsZsearch_ne_refused (s : State) (r : Refusal) : stepGsZsearch s ≠ .refused r := by
  refine withOddModulus_ne_refused fun p => ?_
  split
  · exact withinWidth_ne_refused fun _ => by simp
  · simp

theorem stepCorrLoop_ne_refused (s : State) (r : Refusal) : stepCorrLoop s ≠ .refused r := by
  refine withOddModulus_ne_refused fun p => ?_
  split
  · simp
  · split
    · simp
    · split <;> simp

theorem engineStep_ne_refused (s : State) (r : Refusal) : engineStep s ≠ .refused r := by
  cases hb : s.busy with
  | false => simp [engineStep_idle hb]
  | true =>
    rw [engineStep_busy hb]
    cases hp : s.ph <;> simp only [phaseStep, hp]
    case idle => simp
    case pmExec => exact withModulus_ne_refused fun _ => by simp
    case init => exact stepInit_ne_refused s r
    case dispatch => exact stepDispatch_ne_refused s r
    case gsZsearch => exact stepGsZsearch_ne_refused s r
    case corrLoop => exact stepCorrLoop_ne_refused s r
    all_goals exact withOddModulus_ne_refused fun _ => by simp

/-- Settles O8: only the engine's turn can stop, and under the invariant it does not. -/
theorem noStepStopsUnderTheInvariant : Obligations.NoStepStopsUnderTheInvariant := by
  unfold Obligations.NoStepStopsUnderTheInvariant
  refine ⟨fun s hs => ?_, fun s r => ?_⟩
  · obtain h | ⟨es, h⟩ := step_answers_or_engineStep s
    · exact h
    · have hturn : Inv { s with inbox := es } := { hs with }
      rw [h]
      exact engineStep_answers hturn
  · obtain ⟨t, h⟩ | ⟨es, h⟩ := step_answers_or_engineStep s
    · simp [h]
    · rw [h]
      exact engineStep_ne_refused _ r

/-! ### The function `PowMod` -/

/-- Settles O20. -/
theorem powModIsTheExactPower : Obligations.PowModIsTheExactPower := by
  unfold Obligations.PowModIsTheExactPower
  exact ⟨powMod_toNat, powRound_modEq⟩

theorem powLoop_bb_lt {m : Modulus} {x : PowVars} (h : x.bb.toNat < m.val.toNat) (k : Nat) :
    (powLoop m k x).bb.toNat < m.val.toNat := by
  induction k generalizing x with
  | zero => exact h
  | succ k ih =>
    simp only [powLoop]
    split
    · exact h
    · exact ih (mulMod_lt x.bb x.bb m)

/-- Settles O21: both variables start reduced, and a round stores only products reduced. -/
theorem powModStaysBelowTheModulus : Obligations.PowModStaysBelowTheModulus := by
  unfold Obligations.PowModStaysBelowTheModulus
  exact fun b e m =>
    ⟨powMod_lt b e m, fun k =>
      ⟨powLoop_acc_lt (reduce_lt 1#64 m) k, powLoop_bb_lt (reduce_lt b m) k⟩⟩

/-- Settles O22: each case is one of the exact power, whose base may be reduced first. -/
theorem powModEdgeCasesHold : Obligations.PowModEdgeCasesHold := by
  unfold Obligations.PowModEdgeCasesHold
  intro b e m
  simp only [powMod_toNat]
  refine ⟨?_, fun h1 => ?_, fun hb he => ?_, fun hb h1 => ?_, ?_⟩
  · have hpos := m.pos
    split
    case isTrue h1 => exact Nat.mod_eq_of_lt h1
    case isFalse h1 =>
      have hm : m.val.toNat = 1 := by omega
      rw [hm, Nat.mod_one]
  · rw [h1, Nat.mod_one]
  · rw [Nat.pow_mod, hb, zero_pow he.ne', Nat.zero_mod]
  · rw [Nat.pow_mod, hb, one_pow, Nat.mod_eq_of_lt h1]
  · exact congrArg (· % m.val.toNat) (pow_one b.toNat)

/-! ### The command POWMOD -/

theorem powMod_eq_ofNat (b e : Word) (m : Modulus) :
    powMod b e m = BitVec.ofNat 64 (b.toNat ^ e.toNat % m.val.toNat) :=
  BitVec.eq_of_toNat_eq ((powMod_toNat b e m).trans (narrow_mod_toNat _ m).symm)

/-- POWMOD with a nonzero modulus becomes busy in PM_EXEC (40_pow_mod.md R95). -/
theorem exec_powmod_accepted (hb : s.busy = false) (hm : s.opm.toNat ≠ 0) :
    exec .powmod s = .next (startPhase .pmExec (latch .powmod s)) := by
  rw [exec_idle hb, acceptance_powmod, if_neg hm]

/-- POWMOD with modulus 0 completes at once (40_pow_mod.md R95). -/
theorem exec_powmod_modulusZero (hb : s.busy = false) (hm : s.opm.toNat = 0) :
    exec .powmod s = .next (raiseFault .errModzero (latch .powmod s)) := by
  rw [exec_idle hb, acceptance_powmod, if_pos hm]

/-- The step of PM_EXEC completes with the exact power (40_pow_mod.md R96). -/
theorem engineStep_pmExec_power (hb : s.busy = true) (hp : s.ph = .pmExec)
    (hm : s.wP.toNat ≠ 0) :
    engineStep s =
      .next (complete .ok (BitVec.ofNat 64 (s.wA.toNat ^ s.wB.toNat % s.wP.toNat)) s) := by
  rw [engineStep_pmExec hb hp (Nat.pos_of_ne_zero hm), powMod_eq_ofNat]

/-- Settles O23: the acceptance, then the step of PM_EXEC on the state it leaves. -/
theorem powmodAcceptsAndCompletes : Obligations.PowmodAcceptsAndCompletes := by
  unfold Obligations.PowmodAcceptsAndCompletes
  refine ⟨fun s hb hm => ?_, fun s hb hp hm => engineStep_pmExec_power hb hp hm⟩
  have hrun := engineStep_pmExec_power (s := startPhase .pmExec (latch .powmod s)) rfl rfl hm
  exact ⟨_, _, exec_powmod_accepted hb hm, rfl, hrun, rfl,
    narrow_mod_toNat _ ⟨s.opm, Nat.pos_of_ne_zero hm⟩⟩

/-- Settles O24: the issue of POWMOD is its boundary fault, its acceptance or dropped. -/
theorem powmodChecksOnlyForModulusZero : Obligations.PowmodChecksOnlyForModulusZero := by
  unfold Obligations.PowmodChecksOnlyForModulusZero
  exact fun s => ⟨exec_powmod_modulusZero,
    fun hb hm => ⟨_, exec_powmod_accepted hb (Nat.ne_of_gt hm), rfl⟩,
    fun hb => exec_busy hb .powmod⟩

end Sys2Proof.Machine
end

section
/-! SUPPORT. The statements of 41_legendre.md: the issue of LEGENDRE, its one step with the literal
value, and Euler's criterion for a prime modulus. -/

namespace Sys2Proof.Machine

variable {s : State} {i : Instr}

/-! ### The issue of a command with an odd modulus -/

/-- A modulus that is even or below 3 completes the command at once (41_legendre.md R112,
42_sqrt_mod.md R126). -/
theorem exec_of_badModulus (hi : i ≠ .powmod) (hb : s.busy = false)
    (hm : s.opm.toNat % 2 = 0 ∨ s.opm.toNat < 3) :
    exec i s = .next (raiseFault .errBadp (latch i s)) := by
  rw [exec_idle hb, acceptance_oddModulus hi, if_pos hm]

/-- With any other modulus the command becomes busy in its first phase. -/
theorem exec_of_oddModulus (hi : i ≠ .powmod) (hb : s.busy = false)
    (hodd : s.opm.toNat % 2 = 1) (h3 : 3 ≤ s.opm.toNat) :
    exec i s = .next (startPhase (firstPhase i) (latch i s)) := by
  have hm : ¬(s.opm.toNat % 2 = 0 ∨ s.opm.toNat < 3) := by omega
  rw [exec_idle hb, acceptance_oddModulus hi, if_neg hm]

/-! ### The command LEGENDRE -/

theorem legendreValue_eq_ofNat (n : Word) (p : OddModulus) :
    legendreValue n p =
      BitVec.ofNat 64 (n.toNat ^ ((p.val.toNat - 1) / 2) % p.val.toNat) :=
  BitVec.eq_of_toNat_eq ((legendreValue_toNat n p).trans (narrow_mod_toNat _ p.toModulus).symm)

/-- The step of LG_EXEC completes with the literal value (41_legendre.md R113). -/
theorem engineStep_lgExec (hb : s.busy = true) (hp : s.ph = .lgExec)
    (hodd : s.wP.toNat % 2 = 1) (h3 : 3 ≤ s.wP.toNat) :
    engineStep s = .next (complete .ok
      (BitVec.ofNat 64 (s.wA.toNat ^ ((s.wP.toNat - 1) / 2) % s.wP.toNat)) s) := by
  rw [engineStep_busy hb]
  simp only [phaseStep, hp, stepLgExec, withOddModulus_of_odd hodd h3, legendreValue_eq_ofNat]

/-- Settles O25: the acceptance, then the step of LG_EXEC on the state it leaves. -/
theorem legendreAcceptsAndCompletes : Obligations.LegendreAcceptsAndCompletes := by
  unfold Obligations.LegendreAcceptsAndCompletes
  refine ⟨fun s hb hodd h3 => ?_, fun _ => engineStep_lgExec⟩
  have hrun := engineStep_lgExec (s := startPhase .lgExec (latch .legendre s)) rfl rfl hodd h3
  exact ⟨_, _, exec_of_oddModulus (by decide) hb hodd h3, rfl, hrun, rfl,
    narrow_mod_toNat _ ⟨s.opm, by omega⟩⟩

/-- Settles O26: the issue of LEGENDRE is its boundary fault, its acceptance or dropped. -/
theorem legendreChecksParityAndSize : Obligations.LegendreChecksParityAndSize := by
  unfold Obligations.LegendreChecksParityAndSize
  exact fun s => ⟨exec_of_badModulus (by decide),
    fun hb hodd h3 => ⟨_, exec_of_oddModulus (by decide) hb hodd h3, rfl⟩,
    fun hb => exec_busy hb .legendre⟩

/-! ### Euler's criterion -/

theorem isSquare_natCast_iff {p : Nat} [NeZero p] (n : Nat) :
    IsSquare (n : ZMod p) ↔ ∃ x : Nat, x * x % p = n % p := by
  simp only [← ZMod.natCast_eq_natCast_iff', Nat.cast_mul]
  constructor
  · rintro ⟨y, hy⟩
    exact ⟨y.val, by rw [ZMod.natCast_zmod_val, hy]⟩
  · rintro ⟨x, hx⟩
    exact ⟨x, hx.symm⟩

/-- The Legendre value is read off in the integers modulo `p`, where its exponent is `p / 2`. -/
theorem legendreValue_toNat_eq_iff (n : Word) {p : OddModulus} {k : Nat} (hk : k < p.val.toNat) :
    (legendreValue n p).toNat = k ↔ (n.toNat : ZMod p.val.toNat) ^ (p.val.toNat / 2) = k := by
  have hodd := p.odd
  have hhalf : (p.val.toNat - 1) / 2 = p.val.toNat / 2 := by omega
  rw [← Nat.cast_pow, ZMod.natCast_eq_natCast_iff', Nat.mod_eq_of_lt hk, legendreValue_toNat, hhalf]

/-- Of a prime modulus: every operand is 0 modulo `p`, a nonzero residue or a non-residue, with
Legendre value 0, 1 and `p - 1` (41_legendre.md R111). -/
theorem legendreValue_cases (n : Word) {p : OddModulus} (hp : p.val.toNat.Prime) :
    (n.toNat % p.val.toNat = 0 ∧ (legendreValue n p).toNat = 0) ∨
    (n.toNat % p.val.toNat ≠ 0 ∧ (∃ x : Nat, x * x % p.val.toNat = n.toNat % p.val.toNat) ∧
      (legendreValue n p).toNat = 1) ∨
    (n.toNat % p.val.toNat ≠ 0 ∧ (¬∃ x : Nat, x * x % p.val.toNat = n.toNat % p.val.toNat) ∧
      (legendreValue n p).toNat = p.val.toNat - 1) := by
  have : Fact p.val.toNat.Prime := ⟨hp⟩
  have h3 := p.three_le
  have hzero : n.toNat % p.val.toNat = 0 ↔ (n.toNat : ZMod p.val.toNat) = 0 := by
    rw [ZMod.natCast_eq_zero_iff, Nat.dvd_iff_mod_eq_zero]
  rw [ne_eq, hzero, ← isSquare_natCast_iff, legendreValue_toNat_eq_iff n (by omega),
    legendreValue_toNat_eq_iff n (by omega), legendreValue_toNat_eq_iff n (by omega),
    Nat.cast_pred p.pos, ZMod.natCast_self, zero_sub, Nat.cast_zero, Nat.cast_one]
  by_cases h0 : (n.toNat : ZMod p.val.toNat) = 0
  · exact .inl ⟨h0, by rw [h0, zero_pow (by omega)]⟩
  · have heuler := ZMod.euler_criterion p.val.toNat h0
    by_cases hsq : IsSquare (n.toNat : ZMod p.val.toNat)
    · exact .inr (.inl ⟨h0, hsq, heuler.1 hsq⟩)
    · have hne := mt heuler.2 hsq
      exact .inr (.inr ⟨h0, hsq, (ZMod.pow_div_two_eq_neg_one_or_one _ h0).resolve_left hne⟩)

/-- Settles O27: 0, 1 and `p - 1` differ, so the three cases exclude each other; 0 is a square. -/
theorem legendreValueMeetsEulersCriterion : Obligations.LegendreValueMeetsEulersCriterion := by
  unfold Obligations.LegendreValueMeetsEulersCriterion
  intro n p hp
  have h3 := p.three_le
  have hpred0 : p.val.toNat - 1 ≠ 0 := by omega
  have hpred1 : p.val.toNat - 1 ≠ 1 := by omega
  obtain ⟨h0, hl⟩ | ⟨h0, hsq, hl⟩ | ⟨h0, hsq, hl⟩ := legendreValue_cases n hp <;> rw [hl]
  · have hsq : ∃ x : Nat, x * x % p.val.toNat = 0 := ⟨0, Nat.zero_mod _⟩
    simp [h0, hsq, hpred0.symm]
  · simp [h0, hsq, hpred1.symm]
  · simp [h0, hsq, hpred0, hpred1]

end Sys2Proof.Machine
end

section
/-! SUPPORT. The functions SQRTMOD is made of: `Factor2` gives the only split (42_sqrt_mod.md R121),
`LeastNonResidue` the least candidate that passes, within its bound (R122, R138), and `LeastI` the
least `i`, or none when there is none (R123). -/

namespace Sys2Proof.Machine

variable {p : OddModulus}

/-! ### Factor2 -/

theorem padicValNat_two_pow_mul_odd (e : Nat) {q : Nat} (hq : q % 2 = 1) :
    padicValNat 2 (2 ^ e * q) = e := by
  have hq0 : q ≠ 0 := by omega
  have hdvd : ¬2 ∣ q := by omega
  rw [padicValNat.mul (by positivity) hq0, padicValNat.prime_pow,
    padicValNat.eq_zero_of_not_dvd hdvd, Nat.add_zero]

/-- The count `Factor2` gives is the number of factors 2. -/
theorem factor2_fst_toNat (v : Word) (h : v.toNat ≠ 0) :
    (factor2 v h).1.toNat = padicValNat 2 v.toNat := by
  obtain ⟨hv, hodd, -⟩ := factor2_split v h
  rw [hv, padicValNat_two_pow_mul_odd _ hodd]

/-- Settles O36: the number of factors 2 fixes the exponent, and so the odd part. -/
theorem factor2GivesTheUniqueSplit : Obligations.Factor2GivesTheUniqueSplit := by
  unfold Obligations.Factor2GivesTheUniqueSplit
  intro v h
  obtain ⟨hv, hodd, h63⟩ := factor2_split v h
  refine ⟨hv, hodd, h63, fun heven => Nat.pos_of_ne_zero fun h0 => ?_, fun e q heq hq => ?_⟩
  · rw [h0] at hv
    omega
  · have he : e = (factor2 v h).1.toNat := by
      rw [factor2_fst_toNat, heq, padicValNat_two_pow_mul_odd e hq]
    refine ⟨he, Nat.eq_of_mul_eq_mul_left (Nat.two_pow_pos e) ?_⟩
    rw [← heq, he, ← hv]

/-! ### LeastNonResidue -/

/-- The modulus itself has Legendre value 0, so a candidate with value 1 is below it (42_sqrt_mod.md
R138). -/
theorem candidate_lt {z : Word} (hz : z.toNat ≤ p.val.toNat) (hl : legendreValue z p = 1#64) :
    z.toNat < p.val.toNat := by
  refine Nat.lt_of_le_of_ne hz fun heq => ?_
  rw [legendreValue_eq_one_iff, heq, pow_halfPred_mod_self] at hl
  cases hl

/-- A search that starts at or below `p` and has the rounds to reach it ends on the first candidate
whose Legendre value is not 1. -/
theorem nonResidueLoop_spec {k : Nat} {z : Word} (hz : z.toNat ≤ p.val.toNat)
    (hk : p.val.toNat ≤ z.toNat + k) :
    z.toNat ≤ (nonResidueLoop p k z).toNat ∧ (nonResidueLoop p k z).toNat ≤ p.val.toNat ∧
      legendreValue (nonResidueLoop p k z) p ≠ 1#64 ∧
      ∀ y, z.toNat ≤ y → y < (nonResidueLoop p k z).toNat →
        y ^ ((p.val.toNat - 1) / 2) % p.val.toNat = 1 := by
  induction k generalizing z with
  | zero =>
    exact ⟨le_rfl, hz, fun hl => absurd (candidate_lt hz hl) (Nat.not_lt_of_le hk),
      fun y hy hlt => absurd hlt (Nat.not_lt_of_le hy)⟩
  | succ k ih =>
    simp only [nonResidueLoop]
    split
    case isTrue hl =>
      have hsucc : (narrow (z.toNat + 1)).toNat = z.toNat + 1 :=
        narrow_toNat (succ_candidate_lt hz hl)
      have hlt := candidate_lt hz hl
      rw [legendreValue_eq_one_iff] at hl
      obtain ⟨hle, hp, hstop, hbelow⟩ := ih (z := narrow (z.toNat + 1)) (by omega) (by omega)
      refine ⟨by omega, hp, hstop, fun y hy hlt => ?_⟩
      obtain rfl | hy := Nat.eq_or_lt_of_le hy
      · exact hl
      · exact hbelow y (by omega) hlt
    case isFalse hl => exact ⟨le_rfl, hz, hl, fun y hy hlt => absurd hlt (Nat.not_lt_of_le hy)⟩

/-- `LeastNonResidue(p)` is the least candidate from 2 that passes, and is at most `p`
(42_sqrt_mod.md R122, R138). -/
theorem leastNonResidue_spec (p : OddModulus) :
    2 ≤ (leastNonResidue p).toNat ∧ (leastNonResidue p).toNat ≤ p.val.toNat ∧
      (leastNonResidue p).toNat ^ ((p.val.toNat - 1) / 2) % p.val.toNat ≠ 1 ∧
      ∀ y, 2 ≤ y → y < (leastNonResidue p).toNat →
        y ^ ((p.val.toNat - 1) / 2) % p.val.toNat = 1 := by
  have h3 := p.three_le
  have hspec := nonResidueLoop_spec (p := p) (k := p.val.toNat) (z := 2#64)
    (Nat.le_of_succ_le h3) (Nat.le_add_left _ _)
  rwa [ne_eq, legendreValue_eq_one_iff] at hspec

/-- A candidate that passes is not below `LeastNonResidue(p)`. -/
theorem leastNonResidue_le {y : Nat} (h2 : 2 ≤ y)
    (hy : y ^ ((p.val.toNat - 1) / 2) % p.val.toNat ≠ 1) : (leastNonResidue p).toNat ≤ y := by
  obtain ⟨-, -, -, hbelow⟩ := leastNonResidue_spec p
  exact Nat.le_of_not_lt fun hlt => hy (hbelow y h2 hlt)

/-- The least candidate that passes is `LeastNonResidue(p)`. -/
theorem eq_leastNonResidue {z : Word} (h2 : 2 ≤ z.toNat)
    (hz : z.toNat ^ ((p.val.toNat - 1) / 2) % p.val.toNat ≠ 1)
    (hbelow : ∀ y, 2 ≤ y → y < z.toNat → y ^ ((p.val.toNat - 1) / 2) % p.val.toNat = 1) :
    z = leastNonResidue p := by
  obtain ⟨hl2, -, hl, -⟩ := leastNonResidue_spec p
  have hle : z.toNat ≤ (leastNonResidue p).toNat :=
    Nat.le_of_not_lt fun hlt => hl (hbelow _ hl2 hlt)
  exact BitVec.eq_of_toNat_eq (Nat.le_antisymm hle (leastNonResidue_le h2 hz))

/-- A divisor of `p` other than 1 has no Legendre value 1, being a divisor of that value too
(93_implementation_defined.md G1). -/
theorem pow_halfPred_mod_ne_one_of_dvd {d : Nat} (hd : d ∣ p.val.toNat) (h1 : d ≠ 1) :
    d ^ ((p.val.toNat - 1) / 2) % p.val.toNat ≠ 1 := by
  have h3 := p.three_le
  have hpow : d ∣ d ^ ((p.val.toNat - 1) / 2) % p.val.toNat :=
    (Nat.dvd_mod_iff hd).2 (dvd_pow_self d (by omega))
  intro h
  rw [h] at hpow
  exact h1 (Nat.dvd_one.1 hpow)

theorem leastNonResidue_le_minFac (p : OddModulus) :
    (leastNonResidue p).toNat ≤ p.val.toNat.minFac := by
  have h3 := p.three_le
  have hprime := Nat.minFac_prime (n := p.val.toNat) (by omega)
  exact leastNonResidue_le hprime.two_le
    (pow_halfPred_mod_ne_one_of_dvd (Nat.minFac_dvd _) hprime.ne_one)

/-- Of a prime modulus: some residue class is no square, and it is a candidate below `p`. -/
theorem leastNonResidue_lt_of_prime (hp : p.val.toNat.Prime) :
    (leastNonResidue p).toNat < p.val.toNat := by
  have : Fact p.val.toNat.Prime := ⟨hp⟩
  have h3 := p.three_le
  have hchar : ringChar (ZMod p.val.toNat) ≠ 2 := by
    rw [ZMod.ringChar_zmod_n]
    omega
  obtain ⟨a, ha⟩ := FiniteField.exists_nonsquare hchar
  have hlt := a.val_lt
  have hval : (narrow a.val).toNat = a.val := narrow_toNat (hlt.trans p.val.isLt)
  have hsq : ¬∃ x : Nat, x * x % p.val.toNat = a.val % p.val.toNat := by
    rwa [← isSquare_natCast_iff, ZMod.natCast_zmod_val]
  have h0 : a.val ≠ 0 := fun h => hsq ⟨0, by rw [h]⟩
  have h1 : a.val ≠ 1 := fun h => hsq ⟨1, by rw [h]⟩
  refine (leastNonResidue_le (by omega) fun hone => ?_).trans_lt hlt
  have hcases := legendreValue_cases (narrow a.val) hp
  rw [legendreValue_toNat, hval, hone] at hcases
  obtain ⟨-, hl⟩ | ⟨-, hres, -⟩ | ⟨-, -, hl⟩ := hcases
  · omega
  · exact hsq hres
  · omega

/-- Of a prime modulus: `LeastNonResidue(p)` has Legendre value `p - 1` (42_sqrt_mod.md R138). -/
theorem legendreValue_leastNonResidue_of_prime (hp : p.val.toNat.Prime) :
    (legendreValue (leastNonResidue p) p).toNat = p.val.toNat - 1 := by
  obtain ⟨h2, -, hne, -⟩ := leastNonResidue_spec p
  have hlt := leastNonResidue_lt_of_prime hp
  obtain ⟨h0, -⟩ | ⟨-, -, hl⟩ | ⟨-, -, hl⟩ := legendreValue_cases (leastNonResidue p) hp
  · rw [Nat.mod_eq_of_lt hlt] at h0
    omega
  · exact absurd ((legendreValue_toNat _ p).symm.trans hl) hne
  · exact hl

/-- Settles O37. -/
theorem nonResidueSearchIsBounded : Obligations.NonResidueSearchIsBounded := by
  unfold Obligations.NonResidueSearchIsBounded
  intro p
  obtain ⟨h2, hle, hne, hbelow⟩ := leastNonResidue_spec p
  have hself : legendreValue p.val p = 0#64 :=
    BitVec.eq_of_toNat_eq ((legendreValue_toNat p.val p).trans (pow_halfPred_mod_self p))
  exact ⟨h2, hne, hbelow, hself, hle, leastNonResidue_le_minFac p, fun hp _ =>
    ⟨leastNonResidue_lt_of_prime hp, legendreValue_leastNonResidue_of_prime hp⟩⟩

/-! ### LeastI -/

/-- One more squaring doubles the exponent. -/
theorem mulMod_self_modEq {t i : Nat} {tt : Word} (h : tt.toNat ≡ t ^ 2 ^ i [MOD p.val.toNat]) :
    (mulMod tt tt p.toModulus).toNat ≡ t ^ 2 ^ (i + 1) [MOD p.val.toNat] := by
  rw [mulMod_toNat, pow_succ 2, pow_mul, sq]
  exact (Nat.mod_modEq _ _).trans (h.mul h)

/-- The test of one round is `t^(2^(i+1)) ≡ 1`. -/
theorem mulMod_self_eq_one_iff {t i : Nat} {tt : Word}
    (h : tt.toNat ≡ t ^ 2 ^ i [MOD p.val.toNat]) :
    mulMod tt tt p.toModulus = 1#64 ↔ t ^ 2 ^ (i + 1) % p.val.toNat = 1 := by
  have hlt : (mulMod tt tt p.toModulus).toNat < p.val.toNat := mulMod_lt tt tt p.toModulus
  rw [word_eq_iff_toNat, ← mulMod_self_modEq h, Nat.mod_eq_of_lt hlt]
  rfl

theorem leastILoop_eq_some {t k i j : Nat} {tt : Word}
    (h : tt.toNat ≡ t ^ 2 ^ i [MOD p.val.toNat]) (hj : leastILoop p k (i + 1) tt = some j) :
    t ^ 2 ^ j % p.val.toNat = 1 ∧ ∀ l, i < l → l < j → t ^ 2 ^ l % p.val.toNat ≠ 1 := by
  induction k generalizing i tt with
  | zero => cases hj
  | succ k ih =>
    simp only [leastILoop, mulMod_self_eq_one_iff h] at hj
    split at hj
    case isTrue hone =>
      cases hj
      exact ⟨hone, fun l hl hlt => absurd hlt (Nat.not_lt_of_le hl)⟩
    case isFalse hne =>
      obtain ⟨hone, hbelow⟩ := ih (mulMod_self_modEq h) hj
      refine ⟨hone, fun l hl hlt => ?_⟩
      obtain rfl | hl := Nat.eq_or_lt_of_le (Nat.succ_le_of_lt hl)
      · exact hne
      · exact hbelow l hl hlt

theorem leastILoop_eq_none {t k i : Nat} {tt : Word}
    (h : tt.toNat ≡ t ^ 2 ^ i [MOD p.val.toNat]) (hnone : leastILoop p k (i + 1) tt = none) :
    ∀ l, i < l → l ≤ i + k → t ^ 2 ^ l % p.val.toNat ≠ 1 := by
  induction k generalizing i tt with
  | zero => omega
  | succ k ih =>
    simp only [leastILoop, mulMod_self_eq_one_iff h] at hnone
    split at hnone
    case isTrue => cases hnone
    case isFalse hne =>
      intro l hl hle
      obtain rfl | hl := Nat.eq_or_lt_of_le (Nat.succ_le_of_lt hl)
      · exact hne
      · exact ih (mulMod_self_modEq h) hnone l hl (by omega)

/-- `i` is the least in `[1, m)` with `t^(2^i) ≡ 1 (mod p)`. -/
def IsLeastI (t m p i : Nat) : Prop :=
  1 ≤ i ∧ i < m ∧ t ^ 2 ^ i % p = 1 ∧ ∀ j, 1 ≤ j → j < i → t ^ 2 ^ j % p ≠ 1

theorem IsLeastI.unique {t m p i j : Nat} (hi : IsLeastI t m p i) (hj : IsLeastI t m p j) :
    i = j := by
  obtain ⟨hi1, -, hione, hibelow⟩ := hi
  obtain ⟨hj1, -, hjone, hjbelow⟩ := hj
  obtain hlt | heq | hlt := Nat.lt_trichotomy i j
  · exact absurd hione (hjbelow i hi1 hlt)
  · exact heq
  · exact absurd hjone (hibelow j hj1 hlt)

theorem isLeastI_of_leastI {t m : Word} {i : Nat} (h : leastI t m p = some i) :
    IsLeastI t.toNat m.toNat p.val.toNat i := by
  obtain ⟨h1, hm⟩ := leastI_range h
  have hstart : t.toNat ≡ t.toNat ^ 2 ^ 0 [MOD p.val.toNat] := by rw [pow_zero, pow_one]
  exact ⟨h1, hm, leastILoop_eq_some hstart h⟩

theorem leastI_eq_none_iff {t m : Word} :
    leastI t m p = none ↔ ∀ i, 1 ≤ i → i < m.toNat → t.toNat ^ 2 ^ i % p.val.toNat ≠ 1 := by
  have hstart : t.toNat ≡ t.toNat ^ 2 ^ 0 [MOD p.val.toNat] := by rw [pow_zero, pow_one]
  refine ⟨fun h i h1 hm => leastILoop_eq_none hstart h i h1 (by omega), fun hnone => ?_⟩
  cases h : leastI t m p with
  | none => rfl
  | some i =>
    obtain ⟨h1, hm, hone, -⟩ := isLeastI_of_leastI h
    exact absurd hone (hnone i h1 hm)

theorem leastI_eq_some_iff {t m : Word} {i : Nat} :
    leastI t m p = some i ↔ IsLeastI t.toNat m.toNat p.val.toNat i := by
  refine ⟨isLeastI_of_leastI, fun hi => ?_⟩
  cases h : leastI t m p with
  | none =>
    obtain ⟨h1, hm, hone, -⟩ := hi
    exact absurd hone (leastI_eq_none_iff.1 h i h1 hm)
  | some j => rw [(isLeastI_of_leastI h).unique hi]

/-- Settles O38. -/
theorem leastIFindsTheSmallest : Obligations.LeastIFindsTheSmallest := by
  unfold Obligations.LeastIFindsTheSmallest
  exact fun t m p => ⟨fun i => leastI_eq_some_iff, leastI_eq_none_iff⟩

end Sys2Proof.Machine
end

section
/-! SUPPORT. The statements of 42_sqrt_mod.md on acceptance and on the phases of SQRTMOD. Each phase
has one equation in the model's own functions (`engineStep_init` and so on), for a modulus in its
domain; the statements read the same equation in natural numbers. -/

namespace Sys2Proof.Machine

variable {s t : State} {p : OddModulus} {w : Word}

/-! ### Acceptance -/

/-- Settles O28: the issue of SQRTMOD is its boundary fault, its acceptance or dropped. -/
theorem sqrtmodChecksParityAndSize : Obligations.SqrtmodChecksParityAndSize := by
  unfold Obligations.SqrtmodChecksParityAndSize
  exact fun s => ⟨exec_of_badModulus (by decide),
    fun hb hodd h3 => ⟨_, exec_of_oddModulus (by decide) hb hodd h3, rfl⟩,
    fun hb => exec_busy hb .sqrtmod⟩

/-! ### One equation per phase -/

theorem OddModulus.exists_val_eq (hodd : w.toNat % 2 = 1) (h3 : 3 ≤ w.toNat) :
    ∃ p : OddModulus, p.val = w :=
  ⟨⟨w, (badModulus_eq_false_iff w).2 ⟨hodd, h3⟩⟩, rfl⟩

theorem withOddModulus_val (hp : p.val = w) (k : OddModulus → Host.Outcome State Fault Refusal) :
    withOddModulus w k = k p := by
  subst hp
  exact withOddModulus_of_odd p.odd p.three_le k

theorem reduce_eq_zero_iff (a : Word) (m : Modulus) :
    reduce a m = 0#64 ↔ a.toNat % m.val.toNat = 0 := by
  rw [word_eq_iff_toNat, reduce_toNat]
  rfl

theorem engineStep_init (hb : s.busy = true) (hph : s.ph = .init) (hp : p.val = s.wP) :
    engineStep s =
      if reduce s.wA p.toModulus = 0#64 then
        .next (complete .ok 0#64 { s with wN := reduce s.wA p.toModulus })
      else .next { s with wN := reduce s.wA p.toModulus, ph := .dispatch } := by
  simp only [engineStep_busy hb, phaseStep, hph, stepInit, withOddModulus_val hp]

theorem engineStep_dispatch (hb : s.busy = true) (hph : s.ph = .dispatch) (hp : p.val = s.wP) :
    engineStep s =
      if legendreValue s.wN p ≠ 1#64 then .next (complete .noroot 0#64 s)
      else if s.wP.toNat % 4 = 3 then .next { s with ph := .fastpath }
      else .next { s with wZ := 2#64, ph := .gsZsearch } := by
  simp only [engineStep_busy hb, phaseStep, hph, stepDispatch, withOddModulus_val hp]

theorem engineStep_fastpath (hb : s.busy = true) (hph : s.ph = .fastpath) (hp : p.val = s.wP) :
    engineStep s = .next (complete .ok (powMod s.wN (quarterUp s.wP) p.toModulus) s) := by
  simp only [engineStep_busy hb, phaseStep, hph, stepFastpath, withOddModulus_val hp]

theorem engineStep_gsZsearch (hb : s.busy = true) (hph : s.ph = .gsZsearch) (hp : p.val = s.wP)
    (hz : s.wZ.toNat ≤ p.val.toNat) :
    engineStep s =
      if legendreValue s.wZ p = 1#64 then .next { s with wZ := narrow (s.wZ.toNat + 1) }
      else .next { s with ph := .gsFactor } := by
  simp only [engineStep_busy hb, phaseStep, hph, stepGsZsearch, withOddModulus_val hp]
  split
  case isTrue hl => exact withinWidth_of_lt (succ_candidate_lt hz hl) _
  case isFalse => rfl

theorem engineStep_gsFactor (hb : s.busy = true) (hph : s.ph = .gsFactor) (hp : p.val = s.wP) :
    engineStep s = .next { s with
      wS := (factor2 p.pred p.pred_ne_zero).1
      wQ := (factor2 p.pred p.pred_ne_zero).2
      ph := .gsInitvars } := by
  simp only [engineStep_busy hb, phaseStep, hph, stepGsFactor, withOddModulus_val hp]

theorem engineStep_gsInitvars (hb : s.busy = true) (hph : s.ph = .gsInitvars)
    (hp : p.val = s.wP) :
    engineStep s =
      .next { setSearch (searchStart s.wN s.wZ s.wS s.wQ p) s with ph := .corrLoop } := by
  simp only [engineStep_busy hb, phaseStep, hph, stepGsInitvars, withOddModulus_val hp]

theorem engineStep_corrLoop_done (hb : s.busy = true) (hph : s.ph = .corrLoop)
    (hp : p.val = s.wP) (ht : s.wT = 1#64) : engineStep s = .next (complete .ok s.wR s) := by
  simp only [engineStep_busy hb, phaseStep, hph, stepCorrLoop, withOddModulus_val hp, ht, if_true]

theorem engineStep_corrLoop_none (hb : s.busy = true) (hph : s.ph = .corrLoop)
    (hp : p.val = s.wP) (ht : s.wT ≠ 1#64) (hi : leastI s.wT s.wM p = none) :
    engineStep s = .next (raiseFault .errInternal s) := by
  simp only [engineStep_busy hb, phaseStep, hph, stepCorrLoop, withOddModulus_val hp, ht, if_false,
    hi]

theorem engineStep_corrLoop_some {i : Nat} (hb : s.busy = true) (hph : s.ph = .corrLoop)
    (hp : p.val = s.wP) (hm : s.wM.toNat ≤ 63) (ht : s.wT ≠ 1#64)
    (hi : leastI s.wT s.wM p = some i) :
    engineStep s = .next (setSearch (corrUpdate p i (searchOf s)) s) := by
  have hshift : s.wM.toNat - i - 1 < 64 := by omega
  simp only [engineStep_busy hb, phaseStep, hph, stepCorrLoop, withOddModulus_val hp, ht, if_false,
    hi, hshift, if_true]

/-! ### The phases in natural numbers -/

/-- Settles O29. -/
theorem initReducesTheOperand : Obligations.InitReducesTheOperand := by
  unfold Obligations.InitReducesTheOperand
  intro s hb hph hodd h3
  obtain ⟨p, hp⟩ := OddModulus.exists_val_eq hodd h3
  rw [engineStep_init hb hph hp]
  simp only [reduce_eq_zero_iff, OddModulus.toModulus_val, hp]
  split
  case isTrue hn =>
    have hred : reduce s.wA p.toModulus = 0#64 := (reduce_eq_zero_iff _ _).2 (by rwa [← hp] at hn)
    rw [hred]
    rfl
  case isFalse => rw [reduce, OddModulus.toModulus_val, hp]; rfl

/-- Settles O30. -/
theorem dispatchTestsTheResidueAndSplits : Obligations.DispatchTestsTheResidueAndSplits := by
  unfold Obligations.DispatchTestsTheResidueAndSplits
  intro s hb hph hodd h3
  obtain ⟨p, hp⟩ := OddModulus.exists_val_eq hodd h3
  rw [engineStep_dispatch hb hph hp]
  simp only [ne_eq, legendreValue_eq_one_iff, hp]
  rfl

/-- Settles O31: the odd `p` of FASTPATH is `4k + 3`, and both exponents are `k + 1`. -/
theorem fastpathDeliversThePower : Obligations.FastpathDeliversThePower := by
  unfold Obligations.FastpathDeliversThePower
  intro s hb hph hodd h3
  obtain ⟨p, hp⟩ := OddModulus.exists_val_eq hodd h3
  rw [engineStep_fastpath hb hph hp, powMod_eq_ofNat, quarterUp_toNat, OddModulus.toModulus_val, hp]
  exact ⟨rfl, fun _ => by omega⟩

theorem Phase.general_of_afterSearch {ph : Phase} (h : ph.afterSearch = true) :
    ph.general = true := by
  cases ph <;> simp_all [Phase.afterSearch, Phase.general]

/-- After the search the invariant holds `w.z` to `LeastNonResidue(p)` (42_sqrt_mod.md R133). -/
theorem Inv.wZ_eq_leastNonResidue (h : Inv s) (hph : s.ph.afterSearch = true) (hp : p.val = s.wP) :
    s.wZ = leastNonResidue p := by
  have hgen := Phase.general_of_afterSearch hph
  have hne := h.z_nonresidue hph
  have hbelow := h.z_least hgen
  rw [← hp] at hne hbelow
  exact eq_leastNonResidue (h.z_range hgen).1 hne fun y h2 hy => hbelow y hy h2

/-- Settles O32: a candidate that passes the test is below `p`, so the next one fits. -/
theorem zsearchTriesOneCandidate : Obligations.ZsearchTriesOneCandidate := by
  unfold Obligations.ZsearchTriesOneCandidate
  refine ⟨fun s hb hph hodd h3 hz => ?_, fun s p h hph hp => h.wZ_eq_leastNonResidue hph hp⟩
  obtain ⟨p, hp⟩ := OddModulus.exists_val_eq hodd h3
  have hzp : s.wZ.toNat ≤ p.val.toNat := by rwa [hp]
  have hlegendre := legendreValue_eq_one_iff s.wZ p
  rw [hp] at hlegendre
  rw [engineStep_gsZsearch hb hph hp hzp, ← hlegendre]
  refine ⟨fun hl => ⟨hp ▸ candidate_lt hzp hl, if_pos hl⟩,
    fun hl => ⟨if_neg (mt hlegendre.1 hl), fun h2 hbelow q hq => ?_⟩⟩
  rw [← hq] at hl hbelow
  exact eq_leastNonResidue h2 hl hbelow

/-- Settles O33: `p - 1` is even, so at least one factor 2 is removed. -/
theorem factorSplitsThePredecessor : Obligations.FactorSplitsThePredecessor := by
  unfold Obligations.FactorSplitsThePredecessor
  intro s hb hph hodd h3
  obtain ⟨p, hp⟩ := OddModulus.exists_val_eq hodd h3
  obtain ⟨hv, hq, h63, hpos, -⟩ := factor2GivesTheUniqueSplit p.pred p.pred_ne_zero
  rw [p.pred_toNat, hp] at hv hpos
  refine ⟨_, _, hv, hq, hpos (by omega), h63, ?_⟩
  rw [engineStep_gsFactor hb hph hp]
  simp only [BitVec.ofNat_toNat, BitVec.setWidth_eq]

/-- Settles O34. -/
theorem initvarsSetsTheSearchState : Obligations.InitvarsSetsTheSearchState := by
  unfold Obligations.InitvarsSetsTheSearchState
  intro s hb hph hodd h3
  obtain ⟨p, hp⟩ := OddModulus.exists_val_eq hodd h3
  rw [engineStep_gsInitvars hb hph hp]
  simp only [searchStart, powMod_eq_ofNat, halfUp_toNat, OddModulus.toModulus_val, hp]
  rfl

theorem mulMod_eq_ofNat (a b : Word) (m : Modulus) :
    mulMod a b m = BitVec.ofNat 64 (a.toNat * b.toNat % m.val.toNat) := rfl

/-- One iteration in natural numbers, with `b = c^(2^(m-i-1)) mod p` (42_sqrt_mod.md R136). -/
theorem corrUpdate_eq_ofNat {x : Search} {i b : Nat} (hm : x.m.toNat ≤ 63)
    (hb : b = x.c.toNat ^ 2 ^ (x.m.toNat - i - 1) % p.val.toNat) :
    corrUpdate p i x =
      { m := BitVec.ofNat 64 i
        c := BitVec.ofNat 64 (b * b % p.val.toNat)
        t := BitVec.ofNat 64 (x.t.toNat * (b * b) % p.val.toNat)
        r := BitVec.ofNat 64 (x.r.toNat * b % p.val.toNat) } := by
  have hpow : (powMod x.c (corrExponent x.m i) p.toModulus).toNat = b := by
    rw [powMod_toNat, corrExponent_toNat x.m i (by omega), OddModulus.toModulus_val, hb]
  have hsq : (BitVec.ofNat 64 (b * b % p.val.toNat)).toNat = b * b % p.val.toNat :=
    narrow_mod_toNat _ p.toModulus
  simp only [corrUpdate, mulMod_eq_ofNat, hpow, OddModulus.toModulus_val, hsq, Nat.mul_mod_mod]
  rfl

/-- Settles O35. -/
theorem corrloopTestsAndCorrects : Obligations.CorrloopTestsAndCorrects := by
  unfold Obligations.CorrloopTestsAndCorrects
  intro s hb hph hodd h3 hm
  obtain ⟨p, hp⟩ := OddModulus.exists_val_eq hodd h3
  have hone : s.wT = 1#64 ↔ s.wT.toNat = 1 := word_eq_iff_toNat _ _
  have hleast (i : Nat) : leastI s.wT s.wM p = some i ↔ _ := leastI_eq_some_iff
  have hnone : leastI s.wT s.wM p = none ↔ _ := leastI_eq_none_iff
  rw [hp] at hnone
  simp only [hp] at hleast
  refine ⟨fun ht => ?_, fun ht hall => ?_, fun i b ht h1 him hi hbelow hbv => ?_⟩
  · exact engineStep_corrLoop_done hb hph hp (hone.2 ht)
  · exact engineStep_corrLoop_none hb hph hp (mt hone.1 ht) (hnone.2 hall)
  · have hnext := corrUpdate_eq_ofNat (p := p) (x := searchOf s) (b := b) hm (by rwa [hp])
    rw [hp] at hnext
    rw [engineStep_corrLoop_some hb hph hp hm (mt hone.1 ht) ((hleast i).2 ⟨h1, him, hi, hbelow⟩),
      hnext]
    rfl

/-! ### Roots -/

/-- With `p = 4k + 3` the square of `n^(k+1)` is `n^(2k+1) * n`, and `n^(2k+1)` is the Legendre
value (42_sqrt_mod.md R143). -/
theorem fastpath_power_root {n p : Nat} (h4 : p % 4 = 3) (hl : n ^ ((p - 1) / 2) % p = 1) :
    n ^ (p / 4 + 1) * n ^ (p / 4 + 1) ≡ n [MOD p] := by
  have hexp : p / 4 + 1 + (p / 4 + 1) = (p - 1) / 2 + 1 := by omega
  have hone : n ^ ((p - 1) / 2) ≡ 1 [MOD p] := hl.trans (Nat.mod_eq_of_lt (by omega)).symm
  calc n ^ (p / 4 + 1) * n ^ (p / 4 + 1) = n ^ ((p - 1) / 2) * n := by
        rw [← pow_add, hexp, pow_succ]
    _ ≡ 1 * n [MOD p] := hone.mul_right n
    _ = n := one_mul n

/-- Settles O41. -/
theorem fastpathDeliversARoot : Obligations.FastpathDeliversARoot := by
  unfold Obligations.FastpathDeliversARoot
  intro s hb hph h3 h4 hl
  obtain ⟨hstep, hexp⟩ := fastpathDeliversThePower s hb hph (by omega) h3
  have hres : (BitVec.ofNat 64 (s.wN.toNat ^ (s.wP.toNat / 4 + 1) % s.wP.toNat)).toNat =
      s.wN.toNat ^ (s.wP.toNat / 4 + 1) % s.wP.toNat :=
    narrow_mod_toNat _ ⟨s.wP, by omega⟩
  refine ⟨_, hstep, rfl, ?_, ?_⟩ <;> rw [hres]
  · rw [hexp h4]
  · rw [← Nat.mul_mod]
    exact fastpath_power_root h4 hl

/-- Settles O42. -/
theorem correctionLoopKeepsItsInvariant : Obligations.CorrectionLoopKeepsItsInvariant := by
  unfold Obligations.CorrectionLoopKeepsItsInvariant
  intro s t hb ht
  rw [engineStep_busy hb] at ht
  refine ⟨fun hph hq => ?_, fun hph hroot => ?_⟩ <;> simp only [phaseStep, hph] at ht
  · obtain ⟨p, hp, rfl⟩ := stepGsInitvars_cases ht
    rw [← hp]
    exact ⟨rfl, searchStart_root s.wN s.wZ s.wS p hq⟩
  · obtain ⟨p, hp, ⟨hone, rfl⟩ | ⟨-, -, rfl⟩ | ⟨-, i, -, -, rfl⟩⟩ := stepCorrLoop_cases ht
    · refine ⟨nofun, fun _ _ => ?_⟩
      rw [hone] at hroot
      simpa using hroot
    · exact ⟨nofun, nofun⟩
    · rw [← hp] at hroot ⊢
      refine ⟨fun _ => corrUpdate_root (x := searchOf s) i hroot, fun _ hidle => ?_⟩
      exact absurd (hb.symm.trans hidle) (by decide)

end Sys2Proof.Machine
end

section
/-! SUPPORT. The function `SqrtMod` (42_sqrt_mod.md R124): its value on each path, that what it
delivers is a root (R141), the roots of a prime modulus (R128), and the corner cases on `n` (R147). -/

namespace Sys2Proof.Machine

variable {n r : Word} {p : OddModulus}

/-! ### One equation per path -/

theorem reduce_reduce (a : Word) (m : Modulus) : reduce (reduce a m) m = reduce a m :=
  BitVec.eq_of_toNat_eq (by simp only [reduce_toNat, Nat.mod_mod])

theorem legendreValue_reduce (n : Word) (p : OddModulus) :
    legendreValue (reduce n p.toModulus) p = legendreValue n p := by
  simp only [legendreValue, reduce_reduce]

/-- `SqrtMod` reads its operand reduced only. -/
theorem sqrtMod_reduce (n : Word) (p : OddModulus) :
    sqrtMod (reduce n p.toModulus) p = sqrtMod n p := by
  simp only [sqrtMod, reduce_reduce]

theorem sqrtMod_of_zero (h : n.toNat % p.val.toNat = 0) : sqrtMod n p = (.ok, 0#64) :=
  if_pos ((reduce_eq_zero_iff n p.toModulus).2 h)

/-- A multiple of `p` has Legendre value 0. -/
theorem mod_ne_zero_of_legendreValue (h : legendreValue n p = 1#64) :
    n.toNat % p.val.toNat ≠ 0 := by
  have h3 := p.three_le
  have hexp : (p.val.toNat - 1) / 2 ≠ 0 := by omega
  intro h0
  rw [legendreValue_eq_one_iff, Nat.pow_mod, h0, zero_pow hexp, Nat.zero_mod] at h
  cases h

theorem sqrtMod_of_nonresidue (h0 : n.toNat % p.val.toNat ≠ 0) (hl : legendreValue n p ≠ 1#64) :
    sqrtMod n p = (.noroot, 0#64) := by
  have hn := mt (reduce_eq_zero_iff n p.toModulus).1 h0
  simp only [sqrtMod, if_neg hn, legendreValue_reduce, if_pos hl]

theorem sqrtMod_of_residue (hl : legendreValue n p = 1#64) :
    sqrtMod n p =
      if p.val.toNat % 4 = 3 then
        (.ok, powMod (reduce n p.toModulus) (quarterUp p.val) p.toModulus)
      else generalPath (reduce n p.toModulus) p := by
  have hn := mt (reduce_eq_zero_iff n p.toModulus).1 (mod_ne_zero_of_legendreValue hl)
  simp only [sqrtMod, if_neg hn, legendreValue_reduce, hl, ne_eq, not_true_eq_false, if_false]

/-! ### Roots -/

/-- The loop delivers a root of `n` from every search state that keeps `r^2 ≡ t * n`
(42_sqrt_mod.md R139). -/
theorem corrLoopValue_root {k a : Nat} {x : Search} (hlt : x.r.toNat < p.val.toNat)
    (hroot : x.r.toNat * x.r.toNat ≡ x.t.toNat * a [MOD p.val.toNat])
    (h : corrLoopValue p k x = (.ok, r)) :
    r.toNat < p.val.toNat ∧ r.toNat * r.toNat ≡ a [MOD p.val.toNat] := by
  induction k generalizing x with
  | zero => cases h
  | succ k ih =>
    simp only [corrLoopValue] at h
    split at h
    case isTrue hone =>
      cases h
      rw [hone] at hroot
      exact ⟨hlt, by simpa using hroot⟩
    case isFalse =>
      cases hi : leastI x.t x.m p with
      | none => simp [hi] at h
      | some i =>
        rw [hi] at h
        exact ih (mulMod_lt _ _ p.toModulus) (corrUpdate_root i hroot) h

/-- What `SqrtMod` delivers with OK is a root in `[0, p)`, on every path (42_sqrt_mod.md R141). -/
theorem sqrtMod_root (h : sqrtMod n p = (.ok, r)) :
    r.toNat < p.val.toNat ∧ r.toNat * r.toNat ≡ n.toNat [MOD p.val.toNat] := by
  have hred : (reduce n p.toModulus).toNat ≡ n.toNat [MOD p.val.toNat] := by
    rw [reduce_toNat]
    exact Nat.mod_modEq _ _
  by_cases h0 : n.toNat % p.val.toNat = 0
  · rw [sqrtMod_of_zero h0] at h
    cases h
    exact ⟨p.pos, h0.symm⟩
  by_cases hl : legendreValue n p = 1#64
  · rw [sqrtMod_of_residue hl] at h
    split at h
    case isTrue h4 =>
      cases h
      refine ⟨powMod_lt _ _ p.toModulus, ?_⟩
      rw [← legendreValue_reduce, legendreValue_eq_one_iff] at hl
      rw [powMod_toNat, quarterUp_toNat]
      exact (((Nat.mod_modEq _ _).mul (Nat.mod_modEq _ _)).trans
        (fastpath_power_root h4 hl)).trans hred
    case isFalse =>
      obtain ⟨-, hq, -⟩ := factor2_split p.pred p.pred_ne_zero
      obtain ⟨hlt, hroot⟩ := corrLoopValue_root (powMod_lt _ _ p.toModulus)
        (searchStart_root (reduce n p.toModulus) (leastNonResidue p) _ p hq) h
      exact ⟨hlt, hroot.trans hred⟩
  · rw [sqrtMod_of_nonresidue h0 hl] at h
    cases h

/-! ### The roots of a prime modulus -/

theorem sub_mul_sub_modEq {x p : Nat} (hx : x ≤ p) : (p - x) * (p - x) ≡ x * x [MOD p] := by
  rw [← ZMod.natCast_eq_natCast_iff, Nat.cast_mul, Nat.cast_sub hx, ZMod.natCast_self, zero_sub,
    neg_mul_neg, Nat.cast_mul]

/-- Modulo a prime, equal squares come from equal or complementary numbers. -/
theorem eq_or_add_eq_of_mul_self_modEq {x y p : Nat} (hp : p.Prime) (hx : x < p) (hy : y < p)
    (h : x * x ≡ y * y [MOD p]) : x = y ∨ x + y = p := by
  have : Fact p.Prime := ⟨hp⟩
  rw [← ZMod.natCast_eq_natCast_iff, Nat.cast_mul, Nat.cast_mul, mul_self_eq_mul_self_iff,
    eq_neg_iff_add_eq_zero, ← Nat.cast_add, ZMod.natCast_eq_zero_iff,
    ZMod.natCast_eq_natCast_iff] at h
  obtain heq | ⟨k, hk⟩ := h
  · exact .inl (heq.eq_of_lt_of_lt hx hy)
  · have hk2 : k < 2 := by
      by_contra hge
      have := Nat.mul_le_mul_left p (Nat.le_of_not_lt hge)
      omega
    interval_cases k <;> omega

/-- Settles O46: another root has the square of `r`, so it is `r` or its complement. -/
theorem complementIsTheOnlyOtherRoot : Obligations.ComplementIsTheOnlyOtherRoot := by
  unfold Obligations.ComplementIsTheOnlyOtherRoot
  intro n r p hp h
  obtain ⟨hlt, hroot⟩ := sqrtMod_root h
  have hodd := p.odd
  refine ⟨fun hr => ⟨by omega, by omega, (sub_mul_sub_modEq hlt.le).trans hroot⟩,
    fun x hx hxroot => ?_⟩
  obtain heq | hsum := eq_or_add_eq_of_mul_self_modEq hp hx hlt (Nat.ModEq.trans hxroot hroot.symm)
  · exact .inl heq
  · exact .inr ⟨by omega, by omega⟩

/-! ### Corner cases -/

theorem powMod_one (e : Word) (p : OddModulus) : powMod 1#64 e p.toModulus = 1#64 := by
  have h3 := p.three_le
  refine BitVec.eq_of_toNat_eq ((powMod_toNat _ _ _).trans ?_)
  rw [BitVec.toNat_ofNat, Nat.one_mod, one_pow]
  exact Nat.mod_eq_of_lt (by rw [OddModulus.toModulus_val]; omega)

/-- On the general path 1 starts the loop with `t = 1`, which ends it. -/
theorem generalPath_one (p : OddModulus) : generalPath 1#64 p = (.ok, 1#64) := by
  simp [generalPath, corrLoopValue, searchStart, powMod_one]

/-- Settles O47: on either path the root of 1 is a power of 1. -/
theorem sqrtModCornerCasesHold : Obligations.SqrtModCornerCasesHold := by
  unfold Obligations.SqrtModCornerCasesHold
  refine fun n p => ⟨sqrtMod_of_zero, fun h1 => ?_, (sqrtMod_reduce n p).symm⟩
  have hred : reduce n p.toModulus = 1#64 :=
    BitVec.eq_of_toNat_eq ((reduce_toNat n p.toModulus).trans h1)
  have hl : legendreValue n p = 1#64 := by
    rw [legendreValue, hred]
    exact powMod_one _ p
  rw [sqrtMod_of_residue hl, hred, powMod_one, generalPath_one, ite_self]

end Sys2Proof.Machine
end

section
/-! SUPPORT. SQRTMOD for a prime modulus. The order invariants of the correction loop
(42_sqrt_mod.md R145) are stated in the integers modulo `p`, established by GS_INITVARS and kept by a
correction; from them the loop always finds its `i`, so `SqrtMod` answers OK exactly for the squares (R142). -/

namespace Sys2Proof.Machine

variable {s : State} {x : Search} {n w : Word} {p : OddModulus}

/-! ### Powers in the integers modulo `p` -/

theorem OddModulus.exists_val_eq_of_prime (hw : w.toNat.Prime) (h2 : w.toNat ≠ 2) :
    ∃ p : OddModulus, p.val = w := by
  have hge := hw.two_le
  exact OddModulus.exists_val_eq (hw.eq_two_or_odd.resolve_left h2) (by omega)

theorem pow_mod_eq_iff {a e k m : Nat} (hk : k < m) :
    a ^ e % m = k ↔ (a : ZMod m) ^ e = (k : ZMod m) := by
  rw [← Nat.cast_pow, ZMod.natCast_eq_natCast_iff', Nat.mod_eq_of_lt hk]

theorem pow_mod_eq_one_iff (p : OddModulus) (a e : Nat) :
    a ^ e % p.val.toNat = 1 ↔ (a : ZMod p.val.toNat) ^ e = 1 := by
  have h3 := p.three_le
  rw [pow_mod_eq_iff (by omega), Nat.cast_one]

theorem pow_mod_eq_pred_iff (p : OddModulus) (a e : Nat) :
    a ^ e % p.val.toNat = p.val.toNat - 1 ↔ (a : ZMod p.val.toNat) ^ e = -1 := by
  have h3 := p.three_le
  rw [pow_mod_eq_iff (by omega), Nat.cast_pred p.pos, ZMod.natCast_self, zero_sub]

theorem natCast_powMod (b e : Word) (p : OddModulus) :
    ((powMod b e p.toModulus).toNat : ZMod p.val.toNat) =
      (b.toNat : ZMod p.val.toNat) ^ e.toNat := by
  rw [powMod_toNat, OddModulus.toModulus_val, ZMod.natCast_mod, Nat.cast_pow]

theorem natCast_mulMod (a b : Word) (p : OddModulus) :
    ((mulMod a b p.toModulus).toNat : ZMod p.val.toNat) =
      (a.toNat : ZMod p.val.toNat) * (b.toNat : ZMod p.val.toNat) := by
  rw [mulMod_toNat, OddModulus.toModulus_val, ZMod.natCast_mod, Nat.cast_mul]

/-! ### The order invariants -/

/-- The invariants `OrderInv` says of a state, said of its search state in the integers modulo
`p`. -/
def SearchOrder (p : OddModulus) (x : Search) : Prop :=
  (x.t.toNat : ZMod p.val.toNat) ^ 2 ^ (x.m.toNat - 1) = 1 ∧
    (x.c.toNat : ZMod p.val.toNat) ^ 2 ^ (x.m.toNat - 1) = -1

theorem orderInv_iff_searchOrder (hp : p.val = s.wP) : OrderInv s ↔ SearchOrder p (searchOf s) := by
  rw [OrderInv, ← hp, pow_mod_eq_one_iff, pow_mod_eq_pred_iff]
  rfl

/-- `t = n^q` and `c = z^q` raised to `2^(s-1)` are the Legendre values of `n` and `z`. -/
theorem searchStart_order {n z s q : Word} (hf : p.val.toNat - 1 = 2 ^ s.toNat * q.toNat)
    (hs : 1 ≤ s.toNat) (hn : n.toNat ^ ((p.val.toNat - 1) / 2) % p.val.toNat = 1)
    (hz : z.toNat ^ ((p.val.toNat - 1) / 2) % p.val.toNat = p.val.toNat - 1) :
    SearchOrder p (searchStart n z s q p) := by
  have hexp : q.toNat * 2 ^ (s.toNat - 1) = (p.val.toNat - 1) / 2 := by
    rw [hf, ← Nat.sub_add_cancel hs, pow_succ]
    simp only [Nat.add_sub_cancel]
    rw [Nat.mul_right_comm, Nat.mul_div_cancel _ (by decide), Nat.mul_comm]
  rw [pow_mod_eq_one_iff, ← hexp, pow_mul] at hn
  rw [pow_mod_eq_pred_iff, ← hexp, pow_mul] at hz
  simp only [SearchOrder, searchStart, natCast_powMod]
  exact ⟨hn, hz⟩

/-- A reduced `t` other than 1 is not 1 modulo `p`. -/
theorem natCast_ne_one (ht : x.t.toNat < p.val.toNat) (h1 : x.t ≠ 1#64) :
    (x.t.toNat : ZMod p.val.toNat) ≠ 1 := by
  rw [← pow_one (x.t.toNat : ZMod p.val.toNat), ne_eq, ← pow_mod_eq_one_iff, pow_one,
    Nat.mod_eq_of_lt ht]
  exact mt (word_eq_iff_toNat x.t 1#64).2 h1

/-- `m - 1` is a candidate for `i`: with `m = 1` the invariant makes `t` itself 1. -/
theorem exists_leastI (h : SearchOrder p x) (ht : x.t.toNat < p.val.toNat) (h1 : x.t ≠ 1#64) :
    ∃ i, leastI x.t x.m p = some i := by
  obtain ⟨horder, -⟩ := h
  refine Option.ne_none_iff_exists'.1 fun hnone => ?_
  by_cases hm : x.m.toNat ≤ 1
  · rw [Nat.sub_eq_zero_of_le hm, pow_zero, pow_one] at horder
    exact natCast_ne_one ht h1 horder
  · exact leastI_eq_none_iff.1 hnone (x.m.toNat - 1) (by omega) (by omega)
      ((pow_mod_eq_one_iff _ _ _).2 horder)

/-- Modulo a prime: for the least `i`, `t^(2^(i-1))` is a square root of 1 other than 1. -/
theorem pow_pred_leastI_eq_neg_one {i : Nat} (hp : p.val.toNat.Prime)
    (ht : x.t.toNat < p.val.toNat) (h1 : x.t ≠ 1#64) (hi : leastI x.t x.m p = some i) :
    (x.t.toNat : ZMod p.val.toNat) ^ 2 ^ (i - 1) = -1 := by
  have : Fact p.val.toNat.Prime := ⟨hp⟩
  obtain ⟨hi1, -, hone, hbelow⟩ := leastI_eq_some_iff.1 hi
  rw [pow_mod_eq_one_iff, ← Nat.sub_add_cancel hi1, pow_succ 2, pow_mul, sq_eq_one_iff] at hone
  refine hone.resolve_left fun hpow => ?_
  by_cases hi2 : i = 1
  · rw [hi2, Nat.sub_self, pow_zero, pow_one] at hpow
    exact natCast_ne_one ht h1 hpow
  · exact hbelow (i - 1) (by omega) (by omega) ((pow_mod_eq_one_iff _ _ _).2 hpow)

/-- A correction keeps the order invariants: the new `c` is `c^(2^(m-i))`, whose power `2^(i-1)` is
the old `c^(2^(m-1)) = -1`, and the new `t` is `t` times it, both with power `-1`. -/
theorem corrUpdate_order {i : Nat} (hp : p.val.toNat.Prime) (h : SearchOrder p x)
    (ht : x.t.toNat < p.val.toNat) (h1 : x.t ≠ 1#64) (hm : x.m.toNat ≤ 63)
    (hi : leastI x.t x.m p = some i) : SearchOrder p (corrUpdate p i x) := by
  obtain ⟨-, hc⟩ := h
  obtain ⟨hi1, him⟩ := leastI_range hi
  have htpow := pow_pred_leastI_eq_neg_one hp ht h1 hi
  have hexp : 2 ^ (x.m.toNat - i - 1) * 2 * 2 ^ (i - 1) = 2 ^ (x.m.toNat - 1) := by
    rw [← pow_succ, ← pow_add]
    congr 1
    omega
  have hcnew : (((corrUpdate p i x).c).toNat : ZMod p.val.toNat) =
      (x.c.toNat : ZMod p.val.toNat) ^ (2 ^ (x.m.toNat - i - 1) * 2) := by
    simp only [corrUpdate, natCast_mulMod, natCast_powMod,
      corrExponent_toNat x.m i (show x.m.toNat - i - 1 < 64 by omega), pow_mul, sq]
  have htnew : (((corrUpdate p i x).t).toNat : ZMod p.val.toNat) =
      (x.t.toNat : ZMod p.val.toNat) * ((corrUpdate p i x).c.toNat : ZMod p.val.toNat) :=
    natCast_mulMod _ _ p
  have hcpow : (((corrUpdate p i x).c).toNat : ZMod p.val.toNat) ^ 2 ^ (i - 1) = -1 := by
    rw [hcnew, ← pow_mul, hexp, hc]
  rw [SearchOrder, corrUpdate_m_toNat x hi, htnew, mul_pow, htpow, hcpow]
  exact ⟨by ring, rfl⟩

/-- Settles O45: the order invariants give the least `i`, and the correction for it keeps them. -/
theorem primeCorrectionLoopAlwaysFindsI : Obligations.PrimeCorrectionLoopAlwaysFindsI := by
  unfold Obligations.PrimeCorrectionLoopAlwaysFindsI
  intro s hb hprime h2
  obtain ⟨p, hp⟩ := OddModulus.exists_val_eq_of_prime hprime h2
  refine ⟨fun hph hf hs hn hz => ?_, fun hph horder ht ht1 hm1 hm => ?_⟩
  · rw [← hp] at hf hn hz
    refine ⟨_, engineStep_gsInitvars hb hph hp, rfl, ?_, ?_⟩
    · have hlt := powMod_lt s.wN s.wQ p.toModulus
      rwa [OddModulus.toModulus_val, hp] at hlt
    · refine (orderInv_iff_searchOrder (p := p) ?_).2 (searchStart_order hf hs hn hz)
      exact hp
  · rw [orderInv_iff_searchOrder hp] at horder
    rw [← hp] at hprime ht
    have hne : s.wT ≠ 1#64 := mt (word_eq_iff_toNat _ _).1 ht1
    obtain ⟨i, hi⟩ := exists_leastI horder ht hne
    have hmnew : (corrUpdate p i (searchOf s)).m.toNat = i := corrUpdate_m_toNat (searchOf s) hi
    obtain ⟨hi1, him⟩ := leastI_range hi
    refine ⟨_, engineStep_corrLoop_some hb hph hp hm hne hi, hb, hph, ?_, ?_, ?_, ?_⟩
    · have hlt := mulMod_lt s.wT (corrUpdate p i (searchOf s)).c p.toModulus
      rwa [OddModulus.toModulus_val, hp] at hlt
    · refine (orderInv_iff_searchOrder (p := p) ?_).2 (corrUpdate_order hprime horder ht hne hm hi)
      exact hp
    · rwa [setSearch_wM, hmnew]
    · rwa [setSearch_wM, hmnew]

/-! ### The outcome for a prime modulus -/

/-- From the order invariants the loop ends with OK: each correction leaves a smaller `m`. -/
theorem corrLoopValue_code_ok {k : Nat} (hp : p.val.toNat.Prime) (h : SearchOrder p x)
    (ht : x.t.toNat < p.val.toNat) (hm1 : 1 ≤ x.m.toNat) (hm : x.m.toNat ≤ 63)
    (hk : x.m.toNat ≤ k) : (corrLoopValue p k x).1 = .ok := by
  induction k generalizing x with
  | zero => omega
  | succ k ih =>
    simp only [corrLoopValue]
    split
    case isTrue => rfl
    case isFalse h1 =>
      obtain ⟨i, hi⟩ := exists_leastI h ht h1
      obtain ⟨hi1, him⟩ := leastI_range hi
      have hmnew := corrUpdate_m_toNat x hi
      simp only [hi]
      exact ih (corrUpdate_order hp h ht h1 hm hi) (mulMod_lt _ _ p.toModulus) (by omega)
        (by omega) (by omega)

theorem generalPath_code_ok (hp : p.val.toNat.Prime) (hl : legendreValue n p = 1#64) :
    (generalPath n p).1 = .ok := by
  have hodd := p.odd
  have hz := legendreValue_leastNonResidue_of_prime hp
  obtain ⟨hf, -, h63, hs, -⟩ := factor2GivesTheUniqueSplit p.pred p.pred_ne_zero
  rw [p.pred_toNat] at hf hs
  rw [legendreValue_toNat] at hz
  have horder := searchStart_order hf (hs (by omega)) ((legendreValue_eq_one_iff n p).1 hl) hz
  exact corrLoopValue_code_ok hp horder (powMod_lt _ _ p.toModulus) (hs (by omega)) h63
    (h63.trans (by decide))

/-- For a prime modulus `SqrtMod` answers OK for a square, 0 included (42_sqrt_mod.md R142). -/
theorem sqrtMod_code_of_square (hp : p.val.toNat.Prime)
    (hsq : ∃ x : Nat, x * x % p.val.toNat = n.toNat % p.val.toNat) : (sqrtMod n p).1 = .ok := by
  obtain ⟨h0, -⟩ | ⟨-, -, hl⟩ | ⟨-, hnsq, -⟩ := legendreValue_cases n hp
  · rw [sqrtMod_of_zero h0]
  · have hl1 : legendreValue n p = 1#64 := BitVec.eq_of_toNat_eq hl
    rw [sqrtMod_of_residue hl1]
    split
    · rfl
    · exact generalPath_code_ok hp ((legendreValue_reduce n p).trans hl1)
  · exact absurd hsq hnsq

/-- For a prime modulus `SqrtMod` answers (NOROOT, 0) for a non-square (42_sqrt_mod.md R142). -/
theorem sqrtMod_of_nonsquare (hp : p.val.toNat.Prime)
    (hnsq : ¬∃ x : Nat, x * x % p.val.toNat = n.toNat % p.val.toNat) :
    sqrtMod n p = (.noroot, 0#64) := by
  have h0 : n.toNat % p.val.toNat ≠ 0 := fun h => hnsq ⟨0, by simp [h]⟩
  refine sqrtMod_of_nonresidue h0 fun hl => ?_
  have h3 := p.three_le
  obtain ⟨h0', -⟩ | ⟨-, hsq, -⟩ | ⟨-, -, hpred⟩ := legendreValue_cases n hp
  · exact h0 h0'
  · exact hnsq hsq
  · rw [hl, BitVec.toNat_ofNat, Nat.one_mod] at hpred
    omega

theorem sqrtMod_code_ok_iff (hp : p.val.toNat.Prime) :
    (sqrtMod n p).1 = .ok ↔ ∃ x : Nat, x * x % p.val.toNat = n.toNat % p.val.toNat := by
  refine ⟨fun h => ?_, sqrtMod_code_of_square hp⟩
  by_contra hnsq
  rw [sqrtMod_of_nonsquare hp hnsq] at h
  cases h

theorem sqrtMod_code_noroot_iff (hp : p.val.toNat.Prime) :
    (sqrtMod n p).1 = .noroot ↔ ¬(sqrtMod n p).1 = .ok := by
  refine ⟨fun h => by simp [h], fun h => ?_⟩
  rw [sqrtMod_of_nonsquare hp (mt (sqrtMod_code_ok_iff hp).2 h)]

/-! ### How many operands have a root -/

/-- The squares modulo `p` are those of the lower half of `[0, p)`: the upper half are
complements. -/
theorem exists_mul_self_mod_iff {p n : Nat} (hodd : p % 2 = 1) :
    (∃ x, x * x % p = n) ↔ ∃ x < (p + 1) / 2, x * x % p = n := by
  refine ⟨?_, fun ⟨x, _, hx⟩ => ⟨x, hx⟩⟩
  rintro ⟨x, rfl⟩
  have hlt : x % p < p := Nat.mod_lt x (by omega)
  have hmod : x % p * (x % p) ≡ x * x [MOD p] := (Nat.mod_modEq x p).mul (Nat.mod_modEq x p)
  by_cases hlow : x % p < (p + 1) / 2
  · exact ⟨x % p, hlow, hmod⟩
  · exact ⟨p - x % p, by omega, (sub_mul_sub_modEq hlt.le).trans hmod⟩

/-- In the lower half no two numbers have the same square modulo a prime. -/
theorem injOn_mul_self_mod {p : Nat} (hp : p.Prime) (hodd : p % 2 = 1) :
    Set.InjOn (fun x => x * x % p) (Finset.range ((p + 1) / 2)) := by
  intro x hx y hy h
  simp only [Finset.coe_range, Set.mem_Iio] at hx hy
  obtain heq | hsum := eq_or_add_eq_of_mul_self_modEq hp (by omega) (by omega) h
  · exact heq
  · omega

theorem sqrtMod_ofNat_code_ok_iff (hp : p.val.toNat.Prime) {n : Nat} (hn : n < p.val.toNat) :
    (sqrtMod (BitVec.ofNat 64 n) p).1 = .ok ↔ ∃ x : Nat, x * x % p.val.toNat = n := by
  have hval : (BitVec.ofNat 64 n).toNat = n := narrow_toNat (hn.trans p.val.isLt)
  rw [sqrtMod_code_ok_iff hp, hval, Nat.mod_eq_of_lt hn]

/-- Modulo a prime `(p + 1) / 2` operands have a root (42_sqrt_mod.md R142). -/
theorem card_sqrtMod_ok (hp : p.val.toNat.Prime) :
    ((Finset.range p.val.toNat).filter
      (fun n => (sqrtMod (BitVec.ofNat 64 n) p).1 = .ok)).card = (p.val.toNat + 1) / 2 := by
  have himage : (Finset.range p.val.toNat).filter
      (fun n => (sqrtMod (BitVec.ofNat 64 n) p).1 = .ok) =
      (Finset.range ((p.val.toNat + 1) / 2)).image (fun x => x * x % p.val.toNat) := by
    ext n
    simp only [Finset.mem_filter, Finset.mem_range, Finset.mem_image,
      ← exists_mul_self_mod_iff p.odd]
    constructor
    · rintro ⟨hn, hok⟩
      exact (sqrtMod_ofNat_code_ok_iff hp hn).1 hok
    · rintro ⟨x, hx⟩
      have hn : n < p.val.toNat := hx ▸ Nat.mod_lt _ p.pos
      exact ⟨hn, (sqrtMod_ofNat_code_ok_iff hp hn).2 ⟨x, hx⟩⟩
  rw [himage, Finset.card_image_of_injOn (injOn_mul_self_mod hp p.odd), Finset.card_range]

/-- The others are the `(p - 1) / 2` non-residues. -/
theorem card_sqrtMod_noroot (hp : p.val.toNat.Prime) :
    ((Finset.range p.val.toNat).filter
      (fun n => (sqrtMod (BitVec.ofNat 64 n) p).1 = .noroot)).card = (p.val.toNat - 1) / 2 := by
  have hodd := p.odd
  have hok := card_sqrtMod_ok hp
  have hsum := Finset.card_filter_add_card_filter_not (s := Finset.range p.val.toNat)
    (fun n => (sqrtMod (BitVec.ofNat 64 n) p).1 = .ok)
  simp only [← sqrtMod_code_noroot_iff hp, Finset.card_range] at hsum
  omega

end Sys2Proof.Machine
end

section
/-! SUPPORT. Runs of SQRTMOD. From each phase, last first, the engine completes with the outcome the
function `SqrtMod` gives (42_sqrt_mod.md R137), within a number of turns that adds up to the bound
of R140; what holds of the function then holds of the command. -/

namespace Sys2Proof.Machine

variable {s t u v : State} {p : OddModulus} {k l : Nat}

/-! ### Runs of the engine -/

theorem engineRun_succ_cases (h : engineRun (k + 1) s = .next u) :
    ∃ t, engineStep s = .next t ∧ engineRun k t = .next u := by
  cases hs : engineStep s with
  | next t => exact ⟨t, rfl, engineRun_succ hs ▸ h⟩
  | fault f => simp [engineRun, hs] at h
  | refused r => simp [engineRun, hs] at h

theorem inv_engineRun (hs : Inv s) (h : engineRun k s = .next u) : Inv u := by
  induction k generalizing s with
  | zero => cases h; exact hs
  | succ k ih =>
    obtain ⟨t, ht, h⟩ := engineRun_succ_cases h
    exact ih (inv_engineStep hs ht) h

/-- What no phase writes is as it was after any run. -/
theorem engineRun_frame (h : engineRun k s = .next u) :
    u.opa = s.opa ∧ u.opb = s.opb ∧ u.opm = s.opm ∧ u.wOp = s.wOp ∧ u.wA = s.wA ∧
      u.wB = s.wB ∧ u.wP = s.wP ∧ u.inbox = s.inbox ∧ u.replies = s.replies := by
  induction k generalizing s with
  | zero => cases h; simp
  | succ k ih =>
    obtain ⟨t, ht, h⟩ := engineRun_succ_cases h
    obtain ⟨hframe, -⟩ := engineStepsKeepTheirFrame s t ht
    simpa only [hframe] using ih h

/-- A run that has completed goes on as it is. -/
theorem engineRun_add_of_idle (h : engineRun k s = .next u) (hu : u.busy = false) (l : Nat) :
    engineRun (k + l) s = .next u := by
  simp only [engineRun_add, h]
  exact engineRun_idle hu l

/-- Two runs from one state that have completed end in one state. -/
theorem engineRun_idle_unique (hk : engineRun k s = .next u) (hu : u.busy = false)
    (hl : engineRun l s = .next v) (hv : v.busy = false) : u = v := by
  have h := engineRun_add_of_idle hk hu l
  rw [Nat.add_comm, engineRun_add_of_idle hl hv k] at h
  cases h
  rfl

/-! ### Completion -/

/-- The running command completes with the code and the RES of `o` within the given number of
turns. -/
inductive CompletesWithin (o : Code × Word) : Nat → State → Prop
  | done {k : Nat} {s : State} (hb : s.busy = false) (hc : s.code = o.1) (hr : s.res = o.2) :
    CompletesWithin o k s
  | step {k l : Nat} {s t : State} (hb : s.busy = true) (hs : engineStep s = .next t)
    (ht : CompletesWithin o k t) (hkl : k < l) : CompletesWithin o l s

theorem completesWithin_complete (c : Code) (v : Word) (s : State) (k : Nat) :
    CompletesWithin (c, v) k (complete c v s) :=
  .done rfl rfl rfl

theorem CompletesWithin.mono {o : Code × Word} (h : CompletesWithin o k s) (hkl : k ≤ l) :
    CompletesWithin o l s := by
  cases h with
  | done hb hc hr => exact .done hb hc hr
  | step hb hs ht hlt => exact .step hb hs ht (hlt.trans_le hkl)

/-- The run a completion is about: busy up to a turn within the bound, idle with its outcome
there. -/
theorem CompletesWithin.exists_run {o : Code × Word} (h : CompletesWithin o k s) :
    ∃ l u, l ≤ k ∧ engineRun l s = .next u ∧
      (∀ j, j < l → ∃ v, engineRun j s = .next v ∧ v.busy = true) ∧
      u.busy = false ∧ u.code = o.1 ∧ u.res = o.2 := by
  induction h with
  | @done k s hb hc hr => exact ⟨0, s, Nat.zero_le _, rfl, nofun, hb, hc, hr⟩
  | @step k l s t hb hs _ hkl ih =>
    obtain ⟨j, u, hj, hrun, hbusy, hu⟩ := ih
    refine ⟨j + 1, u, by omega, (engineRun_succ hs).trans hrun, fun i hi => ?_, hu⟩
    cases i with
    | zero => exact ⟨s, rfl, hb⟩
    | succ i =>
      rw [engineRun_succ hs]
      exact hbusy i (Nat.lt_of_succ_lt_succ hi)

/-! ### The phases, last first -/

/-- The loop takes a turn for each test of `t`, and `m` falls from one test to the next
(42_sqrt_mod.md R140). -/
theorem completesWithin_corrLoop (hb : s.busy = true) (hph : s.ph = .corrLoop) (hp : p.val = s.wP)
    (hm1 : 1 ≤ s.wM.toNat) (hm : s.wM.toNat ≤ 63) (hk : s.wM.toNat ≤ k) :
    CompletesWithin (corrLoopValue p k (searchOf s)) s.wM.toNat s := by
  induction k generalizing s with
  | zero => omega
  | succ k ih =>
    simp only [corrLoopValue]
    by_cases h1 : (searchOf s).t = 1#64
    · rw [if_pos h1]
      exact .step hb (engineStep_corrLoop_done hb hph hp h1) (completesWithin_complete _ _ s 0) hm1
    · rw [if_neg h1]
      cases hi : leastI (searchOf s).t (searchOf s).m p with
      | none =>
        exact .step hb (engineStep_corrLoop_none hb hph hp h1 hi)
          (completesWithin_complete _ _ s 0) hm1
      | some i =>
        have hmnew : (corrUpdate p i (searchOf s)).m.toNat = i := corrUpdate_m_toNat (searchOf s) hi
        obtain ⟨hi1, him⟩ := leastI_range hi
        rw [searchOf_m] at him
        have hrest := ih (s := setSearch (corrUpdate p i (searchOf s)) s) hb hph hp
          (by rw [setSearch_wM]; omega) (by rw [setSearch_wM]; omega) (by rw [setSearch_wM]; omega)
        refine .step hb (engineStep_corrLoop_some hb hph hp hm h1 hi) hrest ?_
        rw [setSearch_wM]
        omega

/-- The outcome of the general path for the non-residue `z`. -/
def searchOutcome (n z : Word) (p : OddModulus) : Code × Word :=
  corrLoopValue p Config.W (searchStart n z (factor2 p.pred p.pred_ne_zero).1
    (factor2 p.pred p.pred_ne_zero).2 p)

theorem generalPath_eq_searchOutcome (n : Word) (p : OddModulus) :
    generalPath n p = searchOutcome n (leastNonResidue p) p := rfl

/-- From GS_FACTOR: two turns, and as many as `p - 1` has factors 2. -/
theorem completesWithin_gsFactor (hb : s.busy = true) (hph : s.ph = .gsFactor) (hp : p.val = s.wP) :
    CompletesWithin (searchOutcome s.wN s.wZ p) (padicValNat 2 (p.val.toNat - 1) + 2) s := by
  have hodd := p.odd
  obtain ⟨-, -, h63, hpos, -⟩ := factor2GivesTheUniqueSplit p.pred p.pred_ne_zero
  have hcount := factor2_fst_toNat p.pred p.pred_ne_zero
  rw [p.pred_toNat] at hpos hcount
  have hloop := completesWithin_corrLoop (p := p) (k := Config.W)
    (s := { setSearch (searchStart s.wN s.wZ (factor2 p.pred p.pred_ne_zero).1
        (factor2 p.pred p.pred_ne_zero).2 p)
      { s with
        wS := (factor2 p.pred p.pred_ne_zero).1
        wQ := (factor2 p.pred p.pred_ne_zero).2
        ph := .gsInitvars } with ph := .corrLoop })
    hb rfl hp (hpos (by omega)) h63 (h63.trans (by decide))
  refine .step hb (engineStep_gsFactor hb hph hp) (.step hb (engineStep_gsInitvars hb rfl hp)
    hloop ?_) (Nat.lt_succ_self _)
  exact Nat.lt_succ_of_le hcount.le

/-- The turn on which the search stops leads to GS_FACTOR. -/
theorem completesWithin_gsZsearch_found (hb : s.busy = true) (hph : s.ph = .gsZsearch)
    (hp : p.val = s.wP) (hz : s.wZ.toNat ≤ p.val.toNat) (hl : legendreValue s.wZ p ≠ 1#64) :
    CompletesWithin (searchOutcome s.wN s.wZ p) (padicValNat 2 (p.val.toNat - 1) + 3) s := by
  have hstep := engineStep_gsZsearch hb hph hp hz
  rw [if_neg hl] at hstep
  exact .step hb hstep (completesWithin_gsFactor (s := { s with ph := .gsFactor }) hb rfl hp)
    (Nat.lt_succ_self _)

/-- The search takes a turn for each candidate up to the one it stops at, which is at most `p`
(42_sqrt_mod.md R138). -/
theorem completesWithin_gsZsearch (hb : s.busy = true) (hph : s.ph = .gsZsearch)
    (hp : p.val = s.wP) (hz : s.wZ.toNat ≤ p.val.toNat) (hk : p.val.toNat ≤ s.wZ.toNat + k) :
    CompletesWithin (searchOutcome s.wN (nonResidueLoop p k s.wZ) p)
      (p.val.toNat - s.wZ.toNat + (padicValNat 2 (p.val.toNat - 1) + 3)) s := by
  induction k generalizing s with
  | zero =>
    have hl : legendreValue s.wZ p ≠ 1#64 :=
      fun hl => absurd (candidate_lt hz hl) (Nat.not_lt_of_le hk)
    exact (completesWithin_gsZsearch_found hb hph hp hz hl).mono (Nat.le_add_left _ _)
  | succ k ih =>
    simp only [nonResidueLoop]
    by_cases hl : legendreValue s.wZ p = 1#64
    · have hlt := candidate_lt hz hl
      have hsucc : (narrow (s.wZ.toNat + 1)).toNat = s.wZ.toNat + 1 :=
        narrow_toNat (succ_candidate_lt hz hl)
      have hstep := engineStep_gsZsearch hb hph hp hz
      have hrest := ih (s := { s with wZ := narrow (s.wZ.toNat + 1) }) hb hph hp
        (by simp only [hsucc]; omega) (by simp only [hsucc]; omega)
      rw [if_pos hl] at hstep ⊢
      exact .step hb hstep hrest (by simp only [hsucc]; omega)
    · rw [if_neg hl]
      exact (completesWithin_gsZsearch_found hb hph hp hz hl).mono (Nat.le_add_left _ _)

/-- From DISPATCH, with `w.n` reduced and not 0. -/
theorem completesWithin_dispatch (hb : s.busy = true) (hph : s.ph = .dispatch) (hp : p.val = s.wP)
    (hn : reduce s.wN p.toModulus = s.wN) (hn0 : s.wN ≠ 0#64) :
    CompletesWithin (sqrtMod s.wN p)
      (p.val.toNat + (padicValNat 2 (p.val.toNat - 1) + 2)) s := by
  have h3 := p.three_le
  have hstep := engineStep_dispatch hb hph hp
  by_cases hl : legendreValue s.wN p = 1#64
  · rw [if_neg (not_not.2 hl)] at hstep
    rw [sqrtMod_of_residue hl, hn]
    by_cases h4 : p.val.toNat % 4 = 3
    · rw [if_pos (hp ▸ h4)] at hstep
      have hexp : quarterUp p.val = quarterUp s.wP := by rw [hp]
      rw [if_pos h4, hexp]
      have hfast := engineStep_fastpath (s := { s with ph := .fastpath }) hb rfl hp
      exact .step hb hstep
        (.step hb hfast (completesWithin_complete _ _ _ 0) Nat.zero_lt_one) (by omega)
    · rw [if_neg (hp ▸ h4)] at hstep
      rw [if_neg h4, generalPath_eq_searchOutcome]
      have hsearch := completesWithin_gsZsearch (p := p) (k := p.val.toNat)
        (s := { s with wZ := 2#64, ph := .gsZsearch }) hb rfl hp (Nat.le_of_succ_le h3)
        (Nat.le_add_left _ _)
      refine .step hb hstep hsearch ?_
      show p.val.toNat - 2 + _ < _
      omega
  · rw [if_pos hl] at hstep
    have hne : s.wN.toNat % p.val.toNat ≠ 0 := by
      rwa [ne_eq, ← OddModulus.toModulus_val, ← reduce_eq_zero_iff, hn]
    rw [sqrtMod_of_nonresidue hne hl]
    exact .step hb hstep (completesWithin_complete _ _ s 0) (by omega)

/-- From INIT the command completes with the outcome of `SqrtMod` on the latched operands. -/
theorem completesWithin_init (hb : s.busy = true) (hph : s.ph = .init) (hp : p.val = s.wP) :
    CompletesWithin (sqrtMod s.wA p) (p.val.toNat + padicValNat 2 (p.val.toNat - 1) + 3) s := by
  have hstep := engineStep_init hb hph hp
  by_cases hn : reduce s.wA p.toModulus = 0#64
  · rw [if_pos hn] at hstep
    rw [sqrtMod_of_zero ((reduce_eq_zero_iff _ _).1 hn)]
    exact .step hb hstep (completesWithin_complete _ _ _ 0) (by omega)
  · rw [if_neg hn] at hstep
    have hrest := completesWithin_dispatch (p := p)
      (s := { s with wN := reduce s.wA p.toModulus, ph := .dispatch }) hb rfl hp
      (reduce_reduce _ _) hn
    rw [sqrtMod_reduce] at hrest
    exact .step hb hstep hrest (by omega)

/-! ### The command -/

/-- The state in which an idle engine is left by an accepted SQRTMOD (42_sqrt_mod.md R126). -/
theorem exec_sqrtmod_accepted (hb : s.busy = false) (hp : p.val = s.opm) :
    exec .sqrtmod s = .next (startPhase .init (latch .sqrtmod s)) := by
  have hodd := p.odd
  have h3 := p.three_le
  rw [hp] at hodd h3
  exact exec_of_oddModulus (by decide) hb hodd h3

theorem completesWithin_sqrtmod (hp : p.val = s.opm) :
    CompletesWithin (sqrtMod s.opa p) (p.val.toNat + padicValNat 2 (p.val.toNat - 1) + 3)
      (startPhase .init (latch .sqrtmod s)) :=
  completesWithin_init (s := startPhase .init (latch .sqrtmod s)) rfl rfl hp

/-- Settles O39: the run has the frame of an engine step, and the invariant holds at its end. -/
theorem sqrtmodCompletesWithSqrtMod : Obligations.SqrtmodCompletesWithSqrtMod := by
  unfold Obligations.SqrtmodCompletesWithSqrtMod
  intro s p hb hp
  have hexec := exec_sqrtmod_accepted hb hp
  obtain ⟨k, u, -, hrun, hbusy, hidle, hcode, hres⟩ := (completesWithin_sqrtmod hp).exists_run
  obtain ⟨hopa, hopb, hopm, hwOp, hwA, hwB, hwP, hinbox, hreplies⟩ := engineRun_frame hrun
  have hinv : Inv (startPhase .init (latch .sqrtmod s)) :=
    inv_startPhase (i := .sqrtmod) (by simp [boundaryFault, ← hp, p.good])
  have hph : u.ph = .idle := by
    have hiff := (inv_engineRun hinv hrun).busy_iff
    simpa [hidle] using hiff
  exact ⟨_, u, k, hexec, rfl, hrun, hbusy, hidle, hph, hcode, hres, hopa, hopb, hopm, hinbox,
    hreplies, hwOp, hwA, hwB, hwP⟩

/-- Settles O40: the run completes within the bound, and an engine that has completed lets the rest
of its turns pass. -/
theorem sqrtmodCompletesWithinTheBound : Obligations.SqrtmodCompletesWithinTheBound := by
  unfold Obligations.SqrtmodCompletesWithinTheBound
  intro s hb hodd h3
  obtain ⟨p, hp⟩ := OddModulus.exists_val_eq hodd h3
  obtain ⟨k, u, hk, hrun, -, hidle, -⟩ := (completesWithin_sqrtmod hp).exists_run
  rw [hp] at hk
  have hbound := engineRun_add_of_idle hrun hidle
    (s.opm.toNat + padicValNat 2 (s.opm.toNat - 1) + 3 - k)
  rw [Nat.add_sub_cancel' hk] at hbound
  exact ⟨_, u, exec_sqrtmod_accepted hb hp, hbound, hidle⟩

/-- A SQRTMOD that has completed, after however many turns, has the outcome of `SqrtMod`. -/
theorem sqrtmod_outcome (hb : s.busy = false) (hp : p.val = s.opm)
    (ht : exec .sqrtmod s = .next t) (hrun : engineRun k t = .next u) (hu : u.busy = false) :
    sqrtMod s.opa p = (u.code, u.res) := by
  cases (exec_sqrtmod_accepted hb hp).symm.trans ht
  obtain ⟨l, v, -, hrunv, -, hv, hcode, hres⟩ := (completesWithin_sqrtmod hp).exists_run
  rw [engineRun_idle_unique hrun hu hrunv hv, hcode, hres]

/-- Settles O43: the outcome is that of `SqrtMod`, which delivers only roots. -/
theorem sqrtmodRootSquaresBack : Obligations.SqrtmodRootSquaresBack := by
  unfold Obligations.SqrtmodRootSquaresBack
  intro s t u k hb hodd h3 ht hrun hu hok
  obtain ⟨p, hp⟩ := OddModulus.exists_val_eq hodd h3
  have houtcome := sqrtmod_outcome hb hp ht hrun hu
  rw [hok] at houtcome
  rw [← hp]
  exact sqrtMod_root houtcome

/-- Settles O44: the command answers what `SqrtMod` does, and of that the squares are counted. -/
theorem sqrtmodIsCompleteForPrimes : Obligations.SqrtmodIsCompleteForPrimes := by
  unfold Obligations.SqrtmodIsCompleteForPrimes
  refine ⟨fun s hb hprime h2 => ?_, fun p hprime =>
    ⟨card_sqrtMod_ok hprime, card_sqrtMod_noroot hprime⟩⟩
  obtain ⟨p, hp⟩ := OddModulus.exists_val_eq_of_prime hprime h2
  obtain ⟨k, u, -, hrun, -, hidle, hcode, hres⟩ := (completesWithin_sqrtmod hp).exists_run
  rw [← hp] at hprime
  refine ⟨_, u, k, exec_sqrtmod_accepted hb hp, hrun, hidle, fun hsq => ?_, fun hnsq => ?_⟩
  · rw [← hp] at hsq
    exact hcode.trans (sqrtMod_code_of_square hprime hsq)
  · rw [← hp] at hnsq
    rw [hcode, hres, sqrtMod_of_nonsquare hprime hnsq]
    exact ⟨rfl, rfl⟩

end Sys2Proof.Machine
end

section
/-! SUPPORT. The reset event (70_reset_and_hazards.md R190, R191): the state after it is made of the
reset values, the events to come and the replies given, and of nothing else. -/

namespace Sys2Proof.Machine

variable {s : State}

/-- Of the state before it, the reset event reads the host's own record alone. -/
theorem resetEngine_congr {s₁ s₂ : State} (hin : s₁.inbox = s₂.inbox)
    (hre : s₁.replies = s₂.replies) : resetEngine s₁ = resetEngine s₂ := by
  simp only [resetEngine, hin, hre]

theorem step_reset {es : List Event} (h : s.inbox = .reset :: es) :
    step s = .next (resetEngine { s with inbox := es }) :=
  (step_cons h).trans (runEvent_reset _)

/-- Settles O5: the step is `resetEngine`, whose value depends on the events to come and the replies
alone. -/
theorem resetEventAbortsWithoutTrace : Obligations.ResetEventAbortsWithoutTrace := by
  unfold Obligations.ResetEventAbortsWithoutTrace
  refine ⟨fun s es h => ⟨_, step_reset h, ?_⟩, fun s₁ s₂ es h₁ h₂ hre => ?_⟩
  · simp
  · have hreset : resetEngine { s₁ with inbox := es } = resetEngine { s₂ with inbox := es } :=
      resetEngine_congr rfl hre
    rw [step_reset h₁, step_reset h₂, hreset]

end Sys2Proof.Machine
end

section
/-! SUPPORT. The phases with a modulus outside the domain of their function (log 4). Under the
invariant there is none (`NoStepStopsUnderTheInvariant`). -/

namespace Sys2Proof.Machine

variable {s : State}

theorem phaseStep_pmExec_of_zero (hp : s.ph = .pmExec) (hz : s.wP.toNat = 0) :
    phaseStep s = .fault .modulusUndefined := by
  simp only [phaseStep, hp]
  exact withModulus_of_zero hz _

/-- Each phase of LEGENDRE and SQRTMOD takes its modulus through `withOddModulus` before it does
anything else. -/
theorem phaseStep_oddModulus_of_bad (hp : s.ph.oddModulus = true) (hbad : badModulus s.wP = true) :
    phaseStep s = .fault .modulusUndefined := by
  unfold phaseStep
  cases hph : s.ph with
  | idle | pmExec =>
    rw [hph] at hp
    cases hp
  | lgExec | init | dispatch | fastpath | gsZsearch | gsFactor | gsInitvars | corrLoop =>
    exact withOddModulus_of_bad hbad _

/-- Settles O9: a busy engine's turn is its phase's step, which stops at the modulus. -/
theorem phasesStopOutsideTheirDomain : Obligations.PhasesStopOutsideTheirDomain := by
  unfold Obligations.PhasesStopOutsideTheirDomain
  intro s hb
  rw [engineStep_busy hb]
  exact ⟨phaseStep_pmExec_of_zero, fun hp hdom =>
    phaseStep_oddModulus_of_bad hp ((badModulus_eq_true_iff s.wP).2 hdom)⟩

end Sys2Proof.Machine
end
